-- ==== Sys2Proof/Word.lean ====
section
/-!
DEFINITION. The byte and the word of the engine, and the one rounding division the rules use.

R61: a byte is 8 bits.  R7: every register, every address and every descriptor word is 32 bits wide.
R13: unless a rule says "mod 256" or "mod 2^32", arithmetic in a rule is on unbounded integers, so sizes, counts and
byte offsets are `Nat` everywhere in the model, and only the contents of a register or of a byte are bit vectors.
-/

namespace Sys2Proof

/-- R61: a byte is 8 bits. -/
abbrev Byte := BitVec 8

/-- R7: `XLEN = 32`; registers, addresses and descriptor words. -/
abbrev Word := BitVec 32

/-- R13: `ceil(a / b) = (a + b − 1) div b` for non-negative integers. -/
def divCeil (a b : Nat) : Nat := (a + b - 1) / b

end Sys2Proof
end

