-- ==== Sys2Proof/Config.lean ====
section
/-!
DEFINITION. What an implementation of the engine fixes (the open parameters of 00_scope.md rules R8 to R10) and the
free values of the model (the bytes that 20_memory.md rule R70, 70_reset_and_hazards.md rule R322 and 10_state.md rule
R35 call unspecified).

* `Params` holds MEMSIZE and the choice of OVER.  It is plain data and stands in `State` as the field `config`, which no
  step and no host action changes: a statement about every state is then a statement about every MEMSIZE and every OVER
  (log entries 1 and 2).
* REGBASE (R9) has no home here: the rule says the model need not give registers addresses (log entry 3).
* `freeByte`, `freeLut` and `overValue` have no body: nothing can be proved of their values.
-/

namespace Sys2Proof.Config

/-- Which function OVER is (R10, R252, R253). `lit` is the spec's default instance OVER_LIT, `norm` its alternative
OVER_NORM, and `other n` is implementation number `n`, of which nothing is known beyond rule R252. -/
inductive OverInstance where
  | lit
  | norm
  | other (n : Nat)
  deriving DecidableEq, Repr

/-- The open parameters a run takes as arguments. -/
structure Params where
  /-- R8: the number of bytes of the engine's memory, 32 ≤ MEMSIZE ≤ 2^32. -/
  memSize : Nat
  /-- R10: the arithmetic of the "over" blend. -/
  overFn : OverInstance
  deriving DecidableEq, Repr

/-- R8: the values MEMSIZE may take. -/
def Params.Legal (p : Params) : Prop := 32 ≤ p.memSize ∧ p.memSize ≤ 2 ^ 32

/-- DESIGN CHOICE (log entries 1 and 2), unsafe: the parameters of `State.reset`. MEMSIZE = 0x1000 is the convention of
95_test_vectors.md; OVER_LIT is R253's default. -/
def defaults : Params := { memSize := 0x1000, overFn := .lit }

/-- The free value behind `OverInstance.other n`: the unconstrained part of implementation `n`'s OVER, as a function of
the five arguments of R252. `Machine.overOther` confines it to what R252 (a), (b), (c) allow. -/
opaque overValue : (n ss : Nat) → (isAlpha : Bool) → (fg bg araw : Nat) → Nat

/-- The free value of an unspecified byte of MEM (R70, R322): draw number `draw`, address `addr`. -/
opaque freeByte : (draw addr : Nat) → Byte

/-- The free value of an unspecified LUT entry (R35, R221, R320): draw number `draw`, entry `i`, its four bytes packed
as `r, g, b, a` from the most significant byte down. -/
opaque freeLut : (draw i : Nat) → Word

end Sys2Proof.Config
end

