-- ==== Sys2Proof/Syntax.lean ====
section
/-!
DEFINITION. The seventeen commands of 30_encoding.md rule R94, one constructor per row of the opcode table, with the
operands in the order of the assembly notation of rule R100.

Mode fields are whole bytes and operands whole words, "used at face value" (R91, R93): a tag value outside its legal set
is a command the engine decodes and then refuses by the command's own fault, so it is an `Instr` too.
-/

namespace Sys2Proof

/-- One decoded command. Reserved fields and operands are zero in every descriptor that decodes (R96), so they are no
part of the syntax. -/
inductive Instr where
  /-- R270, OP 0x00. -/
  | halt
  /-- R271, OP 0x01. -/
  | nop
  /-- R272, OP 0x02: W1 = the new cursor. -/
  | setcur (addr : Word)
  /-- R123, OP 0x10: W1 = src, W2 = len. -/
  | crc (src len : Word)
  /-- R124, OP 0x11: W1 = crcLength, W2 = chunkName. -/
  | crcchk (crclen name : Word)
  /-- R142, OP 0x20: F1 = depth, W1..W4 = src, samples per row, rows, dst. -/
  | unpack (d : Byte) (src spr rows dst : Word)
  /-- R143, OP 0x21: F1 = depth, W1..W4 = src, samples per row, rows, dst. -/
  | pack (d : Byte) (src spr rows dst : Word)
  /-- R170, OP 0x30: F1 = bpp, W1..W4 = src, row bytes, rows, dst. -/
  | unfilt (bpp : Byte) (src rb rows dst : Word)
  /-- R175, OP 0x31: F1 = bpp, F2 = kind, W1..W4 = src, row bytes, rows, dst. -/
  | filt (bpp kind : Byte) (src rb rows dst : Word)
  /-- R196, OP 0x40: F1 = depth, F2 = channels, F3 = il, W1..W4 = src, width, height, dst. -/
  | deint (depth channels il : Byte) (src width height dst : Word)
  /-- R197, OP 0x41: F1 = depth, F2 = channels, F3 = il, W1..W5 = src, width, height, dst, srclen. -/
  | intl (depth channels il : Byte) (src width height dst srclen : Word)
  /-- R199, OP 0x42: W1 = src, W2 = number of samples, W4 = dst. -/
  | swap16 (src n dst : Word)
  /-- R221, OP 0x50: W1 = src, W2 = bytelen. -/
  | palld (src bytelen : Word)
  /-- R223, OP 0x51: W1 = src, W2 = alpha count. -/
  | paltr (src m : Word)
  /-- R225, OP 0x52: F1 = depth, W1..W5 = src, width, height, dst, srclen. -/
  | palx (depth : Byte) (src width height dst srclen : Word)
  /-- R242, OP 0x60: F1 = channels, F2 = bytes per sample, W1..W4 = canvas, width, height, snapshot. -/
  | acfg (channels ss : Byte) (canvas width height snap : Word)
  /-- R250, OP 0x61: F1 = dispose, F2 = blend, W1..W6 = src, frame width, frame height, out, x, y. -/
  | compose (dispose blend : Byte) (src fw fh out x y : Word)
  deriving DecidableEq, Repr

/-- The seventeen assigned opcodes (R94), apart from their numbers, which Decode.lean gives. -/
inductive Opcode where
  | halt | nop | setcur | crc | crcchk | unpack | pack | unfilt | filt
  | deint | intl | swap16 | palld | paltr | palx | acfg | compose
  deriving DecidableEq, Repr

/-- The fields of a descriptor that a command may use or must leave zero (R94, R96), in R96's order. -/
inductive Slot where
  | f1 | f2 | f3 | w1 | w2 | w3 | w4 | w5 | w6 | w7
  deriving DecidableEq, Repr

end Sys2Proof
end

