-- ==== Sys2Proof/WellFormed.lean ====
section
/-!
DEFINITION. Which commands are well formed: those whose own fields and operands pass every check the engine makes of them
before it looks at its registers or at memory (30_encoding.md rule R97 and the "Checks" lists of the command rules).

Every `Instr` has an encoding, and the engine decodes the ill-formed ones too: it runs them to the fault named beside each
check (R97: "be refused by the command's own check"). A well-formed command can still fault on the engine's state
(NO_PALETTE, NO_CANVAS, TRNS_COUNT), on its ranges (ACCESS, OVERLAP), on a size (SIZE_MISMATCH) or on data.
-/

namespace Sys2Proof

/-- R97: depth of UNPACK and PACK (BAD_DEPTH). -/
def subByteDepth (d : Byte) : Bool := d == 1 || d == 2 || d == 4

/-- R97: depth of DEINT and INTL (BAD_DEPTH). -/
def imageDepth (d : Byte) : Bool := d == 1 || d == 2 || d == 4 || d == 8 || d == 16

/-- R97: depth of PALX (BAD_DEPTH). -/
def indexDepth (d : Byte) : Bool := d == 1 || d == 2 || d == 4 || d == 8

/-- R97: channels of DEINT, INTL and ACFG (BAD_CHANNELS). -/
def legalChannels (c : Byte) : Bool := decide (1 ≤ c.toNat ∧ c.toNat ≤ 4)

/-- R97: the filter distance of UNFILT and FILT (BAD_GEOMETRY kind 1). -/
def legalBpp (b : Byte) : Bool := decide (1 ≤ b.toNat ∧ b.toNat ≤ 8)

/-- R97: the kind of FILT (BAD_FILTER). -/
def legalKind (k : Byte) : Bool := decide (k.toNat ≤ 4)

/-- R97: the interlace method (BAD_INTERLACE). -/
def legalInterlace (il : Byte) : Bool := decide (il.toNat ≤ 1)

/-- R97: bytes per sample of ACFG (BAD_DEPTH). -/
def legalSampleBytes (ss : Byte) : Bool := ss == 1 || ss == 2

/-- R97, R241: the dispose tag (BAD_DISPOSE). -/
def legalDispose (d : Byte) : Bool := decide (d.toNat ≤ 2)

/-- R97, R241: the blend tag (BAD_BLEND). -/
def legalBlend (b : Byte) : Bool := decide (b.toNat ≤ 1)

/-- Width and height are positive (BAD_GEOMETRY kind 2). -/
def positiveSize (w h : Word) : Bool := decide (1 ≤ w.toNat ∧ 1 ≤ h.toNat)

/-- R221: the length of a palette body (PAL_LENGTH): whole triples, at most 256 of them. -/
def legalPaletteLength (n : Word) : Bool := decide (n.toNat % 3 = 0 ∧ n.toNat / 3 ≤ 256)

/-- The command passes every check of its own fields. -/
def Instr.wellFormed : Instr → Bool
  | .halt => true
  | .nop => true
  | .setcur _ => true
  | .crc _ _ => true
  | .crcchk _ _ => true
  | .unpack d _ _ _ _ => subByteDepth d
  | .pack d _ _ _ _ => subByteDepth d
  | .unfilt bpp _ _ _ _ => legalBpp bpp
  | .filt bpp kind _ _ _ _ => legalBpp bpp && legalKind kind
  | .deint d c il _ w h _ => imageDepth d && legalChannels c && legalInterlace il && positiveSize w h
  | .intl d c il _ w h _ _ => imageDepth d && legalChannels c && legalInterlace il && positiveSize w h
  | .swap16 _ _ _ => true
  | .palld _ n => legalPaletteLength n
  | .paltr _ _ => true
  | .palx d _ w h _ _ => indexDepth d && positiveSize w h
  | .acfg c ss _ w h _ => legalChannels c && legalSampleBytes ss && positiveSize w h
  | .compose d b _ _ _ _ _ _ => legalDispose d && legalBlend b

end Sys2Proof
end

