-- ==== Sys2Proof/Decode.lean ====
section
/-!
DEFINITION. Descriptors: their byte order, the fields of the command word, the opcode map, decoding and encoding.

Sources: 20_memory.md rule R63 (big-endian words), 30_encoding.md rules R90 (eight words), R91 (OP, F1, F2, F3), R94 (the
opcode map), R95 (illegal opcodes), R96 (reserved fields) and R102 steps 3 to 5.

Decoding is total: any eight words give a command or a named rejection, which the fetch turns into ILLEGAL_OP or
ILLEGAL_FIELD.  The encoder is written from R94's table, field by field.
-/

namespace Sys2Proof

/-! ### Byte order (R15, R63) -/

/-- R15: `be32(s) = s[0]·2^24 + s[1]·2^16 + s[2]·2^8 + s[3]`. -/
def be32 (b0 b1 b2 b3 : Byte) : Word := b0 ++ b1 ++ b2 ++ b3

/-- Byte `k` of a word, `k = 0` the most significant (R91: byte 0 of a descriptor is OP). -/
def wordByte (w : Word) (k : Nat) : Byte := w.extractLsb' (24 - 8 * k) 8

/-- R15: `bytes_be32(w)`, the inverse of `be32`. -/
def bytesBe32 (w : Word) : List Byte := [wordByte w 0, wordByte w 1, wordByte w 2, wordByte w 3]

/-! ### Descriptors and their fields (R90, R91) -/

/-- R90: the eight words `W0` to `W7`; after a fetch, `x[k] = Wk`. -/
abbrev Descriptor := Vector Word 8

/-- R91: `OP = W0[31:24]`. -/
def opField (x : Descriptor) : Byte := wordByte x[0] 0

/-- R91: `F1 = W0[23:16]`. -/
def f1Field (x : Descriptor) : Byte := wordByte x[0] 1

/-- R91: `F2 = W0[15:8]`. -/
def f2Field (x : Descriptor) : Byte := wordByte x[0] 2

/-- R91: `F3 = W0[7:0]`. -/
def f3Field (x : Descriptor) : Byte := wordByte x[0] 3

/-- The content of a field, as a number. -/
def Slot.value (x : Descriptor) : Slot → Nat
  | .f1 => (f1Field x).toNat
  | .f2 => (f2Field x).toNat
  | .f3 => (f3Field x).toNat
  | .w1 => x[1].toNat
  | .w2 => x[2].toNat
  | .w3 => x[3].toNat
  | .w4 => x[4].toNat
  | .w5 => x[5].toNat
  | .w6 => x[6].toNat
  | .w7 => x[7].toNat

/-- R96: `pos` is 1, 2 or 3 for F1, F2, F3 and `0x10 + k` for `Wk`. -/
def Slot.pos : Slot → Nat
  | .f1 => 1
  | .f2 => 2
  | .f3 => 3
  | .w1 => 0x11
  | .w2 => 0x12
  | .w3 => 0x13
  | .w4 => 0x14
  | .w5 => 0x15
  | .w6 => 0x16
  | .w7 => 0x17

/-- R96: the order in which the reserved fields are checked: F1, F2, F3, W1, ..., W7. -/
def slotOrder : List Slot := [.f1, .f2, .f3, .w1, .w2, .w3, .w4, .w5, .w6, .w7]

/-! ### The opcode map (R94) -/

/-- R94: the number of an opcode. -/
def Opcode.byte : Opcode → Byte
  | .halt => 0x00
  | .nop => 0x01
  | .setcur => 0x02
  | .crc => 0x10
  | .crcchk => 0x11
  | .unpack => 0x20
  | .pack => 0x21
  | .unfilt => 0x30
  | .filt => 0x31
  | .deint => 0x40
  | .intl => 0x41
  | .swap16 => 0x42
  | .palld => 0x50
  | .paltr => 0x51
  | .palx => 0x52
  | .acfg => 0x60
  | .compose => 0x61

/-- The seventeen assigned opcodes, in the order of R94's table. -/
def Opcode.all : List Opcode :=
  [.halt, .nop, .setcur, .crc, .crcchk, .unpack, .pack, .unfilt, .filt,
   .deint, .intl, .swap16, .palld, .paltr, .palx, .acfg, .compose]

/-- R94: the fields and operands a command uses; every other one is reserved and must be zero. -/
def Opcode.used : Opcode → List Slot
  | .halt => []
  | .nop => []
  | .setcur => [.w1]
  | .crc => [.w1, .w2]
  | .crcchk => [.w1, .w2]
  | .unpack => [.f1, .w1, .w2, .w3, .w4]
  | .pack => [.f1, .w1, .w2, .w3, .w4]
  | .unfilt => [.f1, .w1, .w2, .w3, .w4]
  | .filt => [.f1, .f2, .w1, .w2, .w3, .w4]
  | .deint => [.f1, .f2, .f3, .w1, .w2, .w3, .w4]
  | .intl => [.f1, .f2, .f3, .w1, .w2, .w3, .w4, .w5]
  | .swap16 => [.w1, .w2, .w4]
  | .palld => [.w1, .w2]
  | .paltr => [.w1, .w2]
  | .palx => [.f1, .w1, .w2, .w3, .w4, .w5]
  | .acfg => [.f1, .f2, .w1, .w2, .w3, .w4]
  | .compose => [.f1, .f2, .w1, .w2, .w3, .w4, .w5, .w6]

/-- R94: "A decoder selects the command by OP alone". The 239 other values are illegal (R95). -/
def Opcode.ofByte (b : Byte) : Option Opcode := Opcode.all.find? fun op => op.byte == b

/-! ### Decoding (R102 steps 3 to 5) -/

/-- Why a descriptor is no command. -/
inductive DecodeReject where
  /-- Fewer than 32 bytes were given (R90, R98); the fetch never asks for fewer. -/
  | truncated
  /-- R95: OP is not in the table; `w0` is the command word. -/
  | illegalOp (w0 : Word)
  /-- R96: the first reserved field that is not zero. -/
  | illegalField (w0 : Word) (pos : Nat)
  deriving DecidableEq, Repr

/-- R96: the first field, in order, that the command leaves reserved and that is not zero. -/
def firstReserved (op : Opcode) (x : Descriptor) : Option Slot :=
  slotOrder.find? fun sl => !(op.used.contains sl) && sl.value x != 0

/-- R93, R94: the command of an opcode, its fields and operands at face value. -/
def buildInstr (x : Descriptor) : Opcode → Instr
  | .halt => .halt
  | .nop => .nop
  | .setcur => .setcur x[1]
  | .crc => .crc x[1] x[2]
  | .crcchk => .crcchk x[1] x[2]
  | .unpack => .unpack (f1Field x) x[1] x[2] x[3] x[4]
  | .pack => .pack (f1Field x) x[1] x[2] x[3] x[4]
  | .unfilt => .unfilt (f1Field x) x[1] x[2] x[3] x[4]
  | .filt => .filt (f1Field x) (f2Field x) x[1] x[2] x[3] x[4]
  | .deint => .deint (f1Field x) (f2Field x) (f3Field x) x[1] x[2] x[3] x[4]
  | .intl => .intl (f1Field x) (f2Field x) (f3Field x) x[1] x[2] x[3] x[4] x[5]
  | .swap16 => .swap16 x[1] x[2] x[4]
  | .palld => .palld x[1] x[2]
  | .paltr => .paltr x[1] x[2]
  | .palx => .palx (f1Field x) x[1] x[2] x[3] x[4] x[5]
  | .acfg => .acfg (f1Field x) (f2Field x) x[1] x[2] x[3] x[4]
  | .compose => .compose (f1Field x) (f2Field x) x[1] x[2] x[3] x[4] x[5] x[6]

/-- R102 steps 3 to 5: the opcode check, then the reserved-field check, then the command. -/
def decode (x : Descriptor) : Except DecodeReject Instr :=
  match Opcode.ofByte (opField x) with
  | none => .error (.illegalOp x[0])
  | some op =>
    match firstReserved op x with
    | some sl => .error (.illegalField x[0] sl.pos)
    | none => .ok (buildInstr x op)

/-- R90, R63: the eight big-endian words of the first 32 bytes. -/
def descriptorOfBytes : List Byte → Option Descriptor
  | a0 :: a1 :: a2 :: a3 :: b0 :: b1 :: b2 :: b3 :: c0 :: c1 :: c2 :: c3 :: d0 :: d1 :: d2 :: d3 ::
    e0 :: e1 :: e2 :: e3 :: f0 :: f1 :: f2 :: f3 :: g0 :: g1 :: g2 :: g3 :: h0 :: h1 :: h2 :: h3 :: _ =>
    some #v[be32 a0 a1 a2 a3, be32 b0 b1 b2 b3, be32 c0 c1 c2 c3, be32 d0 d1 d2 d3,
            be32 e0 e1 e2 e3, be32 f0 f1 f2 f3, be32 g0 g1 g2 g3, be32 h0 h1 h2 h3]
  | _ => none

/-- The decoder on bytes: the command and the bytes after its descriptor. R98: every command is 32 bytes long. -/
def decodeBytes (bs : List Byte) : Except DecodeReject (Instr × List Byte) :=
  match descriptorOfBytes bs with
  | none => .error .truncated
  | some x =>
    match decode x with
    | .error e => .error e
    | .ok i => .ok (i, bs.drop 32)

/-! ### Encoding (R91, R94) -/

/-- R91: the command word of an opcode and three mode fields. -/
def commandWord (op : Opcode) (f1 f2 f3 : Byte) : Word := be32 op.byte f1 f2 f3

/-- R94: the eight words of a command; reserved fields and operands are zero. -/
def encode : Instr → Descriptor
  | .halt => #v[commandWord .halt 0 0 0, 0, 0, 0, 0, 0, 0, 0]
  | .nop => #v[commandWord .nop 0 0 0, 0, 0, 0, 0, 0, 0, 0]
  | .setcur addr => #v[commandWord .setcur 0 0 0, addr, 0, 0, 0, 0, 0, 0]
  | .crc src len => #v[commandWord .crc 0 0 0, src, len, 0, 0, 0, 0, 0]
  | .crcchk crclen name => #v[commandWord .crcchk 0 0 0, crclen, name, 0, 0, 0, 0, 0]
  | .unpack d src spr rows dst => #v[commandWord .unpack d 0 0, src, spr, rows, dst, 0, 0, 0]
  | .pack d src spr rows dst => #v[commandWord .pack d 0 0, src, spr, rows, dst, 0, 0, 0]
  | .unfilt bpp src rb rows dst => #v[commandWord .unfilt bpp 0 0, src, rb, rows, dst, 0, 0, 0]
  | .filt bpp kind src rb rows dst => #v[commandWord .filt bpp kind 0, src, rb, rows, dst, 0, 0, 0]
  | .deint depth channels il src width height dst =>
    #v[commandWord .deint depth channels il, src, width, height, dst, 0, 0, 0]
  | .intl depth channels il src width height dst srclen =>
    #v[commandWord .intl depth channels il, src, width, height, dst, srclen, 0, 0]
  | .swap16 src n dst => #v[commandWord .swap16 0 0 0, src, n, 0, dst, 0, 0, 0]
  | .palld src bytelen => #v[commandWord .palld 0 0 0, src, bytelen, 0, 0, 0, 0, 0]
  | .paltr src m => #v[commandWord .paltr 0 0 0, src, m, 0, 0, 0, 0, 0]
  | .palx depth src width height dst srclen =>
    #v[commandWord .palx depth 0 0, src, width, height, dst, srclen, 0, 0]
  | .acfg channels ss canvas width height snap =>
    #v[commandWord .acfg channels ss 0, canvas, width, height, snap, 0, 0, 0]
  | .compose dispose blend src fw fh out x y =>
    #v[commandWord .compose dispose blend 0, src, fw, fh, out, x, y, 0]

/-- R63, R90: the 32 bytes of a descriptor, `W0` first, each word most significant byte first. -/
def descriptorBytes (x : Descriptor) : List Byte := x.toList.flatMap bytesBe32

/-- The 32 bytes of a command as the host places them in memory. -/
def encodeBytes (i : Instr) : List Byte := descriptorBytes (encode i)

/-- The opcode of a command (R94). -/
def Instr.opcode : Instr → Opcode
  | .halt => .halt
  | .nop => .nop
  | .setcur _ => .setcur
  | .crc _ _ => .crc
  | .crcchk _ _ => .crcchk
  | .unpack _ _ _ _ _ => .unpack
  | .pack _ _ _ _ _ => .pack
  | .unfilt _ _ _ _ _ => .unfilt
  | .filt _ _ _ _ _ _ => .filt
  | .deint _ _ _ _ _ _ _ => .deint
  | .intl _ _ _ _ _ _ _ _ => .intl
  | .swap16 _ _ _ => .swap16
  | .palld _ _ => .palld
  | .paltr _ _ => .paltr
  | .palx _ _ _ _ _ _ => .palx
  | .acfg _ _ _ _ _ _ => .acfg
  | .compose _ _ _ _ _ _ _ _ => .compose

/-! ### The host's numbering of an instruction's bits -/

/-- The descriptor whose bits are `w`: bit 0 is the least significant bit of W0, bit 32 that of W1, and so on; every bit
at or above `nbits` is 0. -/
def tableDescriptor (nbits w : Nat) : Descriptor :=
  let v := w % 2 ^ nbits
  #v[BitVec.ofNat 32 v, BitVec.ofNat 32 (v >>> 32), BitVec.ofNat 32 (v >>> 64), BitVec.ofNat 32 (v >>> 96),
     BitVec.ofNat 32 (v >>> 128), BitVec.ofNat 32 (v >>> 160), BitVec.ofNat 32 (v >>> 192), BitVec.ofNat 32 (v >>> 224)]

/-- What the decoder reads from the bytes of that descriptor, laid out as the hardware stores them. -/
def decodeTableWord (nbits w : Nat) : Option Instr :=
  match decodeBytes (descriptorBytes (tableDescriptor nbits w)) with
  | .ok (i, _) => some i
  | .error _ => none

end Sys2Proof
end

