-- ==== Sys2Proof/Machine/State.lean ====
section
/-!
DEFINITION. The engine's whole state (10_state.md rule R20), the reasons a move can stop, and the state after reset (R50).

State is plain data. Every register has one home; the views that the host reads (STATUS, CFG, CTRL) are computed from it
in Machine/Flags.lean and Machine/HostPort.lean.
-/

namespace Sys2Proof.Machine

/-- R40, R60: `MEM`, the one byte memory, as its listed cells: addresses strictly rising, and no cell that holds what an
unlisted address reads as (`Memory.wf` in Machine/Ops.lean). An address is a byte address, 0 to MEMSIZE − 1. -/
abbrev Memory := List Host.Cell

/-- R26: the four run states of STATUS; "at most one of the three bits is 1". -/
inductive RunState where
  /-- STATUS = 0. -/
  | idle
  /-- STATUS = 1: the engine is executing a command list. -/
  | busy
  /-- STATUS = 2: the last list ended with HALT. -/
  | done
  /-- STATUS = 4: a command faulted and the engine is stopped until reset. -/
  | err
  deriving DecidableEq, Repr

/-- R29: the two option bits of CFG; its bits 31 to 2 read 0 and ignore writes, so they hold nothing. -/
structure CfgReg where
  /-- Bit 0: CRCCHK verifies the stored checksum. -/
  crcen : Bool
  /-- Bit 1: the host stores 16-bit samples little-endian. -/
  hle : Bool
  deriving DecidableEq, Repr

/-- R281: the nineteen faults of the engine, in the order of their codes. -/
inductive EngineFault where
  | illegalOp | illegalField | access | overlap | crcMismatch | badDepth | badChannels | badGeometry | sizeMismatch
  | badFilter | badInterlace | palLength | noPalette | palIndex | trnsCount | badDispose | badBlend | sampleRange | noCanvas
  deriving DecidableEq, Repr

/-- R16: `raise F(i0, i1, i2)`; the information words are numbers here and are reduced mod 2^32 on fault entry (R300). -/
structure Raise where
  kind : EngineFault
  info0 : Nat
  info1 : Nat
  info2 : Nat
  deriving DecidableEq, Repr

/-- R33: the five fault registers. -/
structure FaultRegs where
  /-- 0x07: the code of the fault, 0 when none. -/
  errcode : Word
  /-- 0x08: CP of the faulting command. -/
  errcp : Word
  /-- 0x09. -/
  errinfo0 : Word
  /-- 0x0A. -/
  errinfo1 : Word
  /-- 0x0B. -/
  errinfo2 : Word
  deriving DecidableEq, Repr

/-- R35: one entry of the palette look-up table, four bytes. -/
structure LutEntry where
  r : Byte
  g : Byte
  b : Byte
  a : Byte
  deriving DecidableEq, Repr

/-- R34, R35: the palette unit. -/
structure Palette where
  /-- 0x0C: the number of valid entries, 0 to 256. -/
  paln : Word
  /-- 0x0D: the components of an entry, 0, 3 or 4. -/
  palc : Word
  /-- `LUT[0]` to `LUT[255]`. -/
  lut : Vector LutEntry 256
  deriving DecidableEq, Repr

/-- R38: the twelve compositor registers, 0x10 to 0x1B. -/
structure Compositor where
  acanvas : Word
  asnap : Word
  aw : Word
  ah : Word
  ach : Word
  ass : Word
  aframes : Word
  apx : Word
  apy : Word
  apw : Word
  aph : Word
  apdisp : Word
  deriving DecidableEq, Repr

/-- R20: the engine's whole architectural state, with two fields of the model's own: `config` (the open parameters, which
no move changes) and `freeDraws` (how many times an unspecified value has been drawn). CTRL (R25) stores nothing: a write
acts and a read returns 0. -/
structure State where
  /-- The open parameters MEMSIZE and OVER (R8, R10); the model's own field. -/
  config : Config.Params
  /-- R40: the byte memory. -/
  mem : Memory
  /-- R21: the operand latches `x[0]` to `x[7]`. -/
  x : Descriptor
  /-- R22: the command pointer. -/
  cp : Word
  /-- R30: the stream cursor. -/
  cur : Word
  /-- R26: the run state that STATUS shows. -/
  status : RunState
  /-- R29: the option bits of CFG. -/
  cfg : CfgReg
  /-- R31: the last computed checksum. -/
  crcr : Word
  /-- R32: the bytes written by the last data command. -/
  olen : Word
  /-- R33: the fault registers. -/
  err : FaultRegs
  /-- R34, R35: the palette unit. -/
  pal : Palette
  /-- R38: the compositor's registers. -/
  comp : Compositor
  /-- How many unspecified values have been drawn so far; the model's own field (log entry 5). -/
  freeDraws : Nat
  deriving DecidableEq, Repr

/-- Why a move stops with a fault. No step of the engine does: all nineteen faults of R281 are states the engine enters
(STATUS = ERR), not stops. -/
inductive Fault where
  /-- Raised by a host read or write of MEM at an address at or above MEMSIZE, which R60 says is no valid address. Safe:
  nothing is claimed of such an access. -/
  | noSuchAddress (a : Nat)
  deriving DecidableEq, Repr

/-- Why a move has no meaning. -/
inductive Refusal where
  /-- An instruction that has no meaning yet. No arm of `exec` uses it. Safe. -/
  | notModelled (mnemonic : String)
  /-- Raised by a host access, other than reading STATUS and writing CTRL with RST or GO set, while STATUS.BUSY = 1: R27 and R333 put it
  "outside the model". Safe. -/
  | hostAccessWhileBusy
  deriving DecidableEq, Repr

/-- The palette unit with every register 0 and a LUT of zeros. -/
def Palette.zero : Palette := { paln := 0, palc := 0, lut := Vector.replicate 256 ⟨0, 0, 0, 0⟩ }

/-- R50: the fault registers after reset. -/
def FaultRegs.zero : FaultRegs := { errcode := 0, errcp := 0, errinfo0 := 0, errinfo1 := 0, errinfo2 := 0 }

/-- R50: the compositor registers after reset; AW = 0 means not configured. -/
def Compositor.zero : Compositor :=
  { acanvas := 0, asnap := 0, aw := 0, ah := 0, ach := 0, ass := 0, aframes := 0, apx := 0, apy := 0, apw := 0, aph := 0, apdisp := 0 }

/-- The state after power-on and reset of an engine with the open parameters `config` (R8: "The model takes it as an
argument"): every register 0 (R50), no byte of memory listed (log entry 4), the LUT zeros (log entry 6). -/
def State.resetWith (config : Config.Params) : State :=
  { config, mem := [], x := #v[0, 0, 0, 0, 0, 0, 0, 0], cp := 0, cur := 0, status := .idle, cfg := { crcen := false, hle := false },
    crcr := 0, olen := 0, err := .zero, pal := .zero, comp := .zero, freeDraws := 0 }

/-- R50: the machine right after reset, with the default parameters (log entries 1 and 2). -/
def State.reset : State := State.resetWith Config.defaults

end Sys2Proof.Machine
end

