-- ==== Sys2Proof/Machine/Ops.lean ====
section
/-!
DEFINITION. The operations every command is made of: reading and writing MEM, drawing unspecified values, advancing CP, fault
entry, and the reset that is the only way back from a fault.

Sources: 20_memory.md rules R60, R61, R66, R69, R70; 00_scope.md rules R13, R15, R16; 10_state.md rules R22, R32, R50;
60_exceptions.md rules R281, R300, R302; 70_reset_and_hazards.md rules R320, R322.
-/

namespace Sys2Proof.Machine

/-! ### Byte sequences (R15) -/

/-- `zeros(n)`. -/
def zeros (n : Nat) : List Byte := List.replicate n 0

/-- `s[i .. i + n)`. -/
def slice (s : List Byte) (i n : Nat) : List Byte := (s.drop i).take n

/-- The sequence `s` with `bs` put in the place of its elements from `i` on. -/
def putAt (s : List Byte) (i : Nat) (bs : List Byte) : List Byte := s.take i ++ bs ++ s.drop (i + bs.length)

/-! ### Memory (R40, R60, R61, R69) -/

/-- What an address with no cell reads as. DESIGN CHOICE (log entry 4), unsafe: R50 leaves memory at power-on
unspecified. -/
def unlistedByte : Byte := 0

/-- The canonical form of memory: addresses strictly rising, no cell that holds what an unlisted address reads as. -/
abbrev Memory.wf (m : Memory) : Prop :=
  m.Pairwise (fun c d => c.1 < d.1) ∧ ∀ c ∈ m, c.2 ≠ unlistedByte

/-- R16: `M[a]`. -/
def Memory.byte (m : Memory) (a : Nat) : Byte := (m.lookup a).getD unlistedByte

/-- R16: `MemRead(addr, n)`, lowest address first. -/
def Memory.read (m : Memory) (a n : Nat) : List Byte := (List.range n).map fun i => m.byte (a + i)

/-- The cells that list `bs` from address `a` on. -/
def cellsFrom (a : Nat) : List Byte → List Host.Cell
  | [] => []
  | b :: bs => (a, b) :: cellsFrom (a + 1) bs

/-- R16: `MemWrite(addr, len(bs), bs)`. The cells below and above the range are kept; inside it, a byte equal to what an
unlisted address reads as is not listed. -/
def Memory.write (m : Memory) (a : Nat) (bs : List Byte) : Memory :=
  m.filter (fun c => decide (c.1 < a)) ++ (cellsFrom a bs).filter (fun c => c.2 != unlistedByte) ++
    m.filter (fun c => decide (a + bs.length ≤ c.1))

/-- R63: word `k` of the descriptor at `a`. -/
def Memory.word (m : Memory) (a : Nat) : Word := be32 (m.byte a) (m.byte (a + 1)) (m.byte (a + 2)) (m.byte (a + 3))

/-- R102 step 2: the eight words of the descriptor at `a`. -/
def Memory.descriptor (m : Memory) (a : Nat) : Descriptor :=
  #v[m.word a, m.word (a + 4), m.word (a + 8), m.word (a + 12), m.word (a + 16), m.word (a + 20), m.word (a + 24), m.word (a + 28)]

/-! ### Updates of the state -/

/-- The state with memory `m`. -/
def State.withMem (s : State) (m : Memory) : State := { s with mem := m }

/-- R32: `OLEN <- n`, as a 32-bit value. -/
def State.withOlen (s : State) (n : Nat) : State := { s with olen := BitVec.ofNat 32 n }

/-- `CUR <- w`. -/
def State.withCur (s : State) (w : Word) : State := { s with cur := w }

/-- `CRCR <- w`. -/
def State.withCrcr (s : State) (w : Word) : State := { s with crcr := w }

/-- The palette unit takes the value `p`. -/
def State.withPal (s : State) (p : Palette) : State := { s with pal := p }

/-- The compositor's registers take the value `c`. -/
def State.withComp (s : State) (c : Compositor) : State := { s with comp := c }

/-- R26: the run state becomes `r`. -/
def State.withStatus (s : State) (r : RunState) : State := { s with status := r }

/-- R102 step 2: the latches are loaded, all eight at once. -/
def State.withLatches (s : State) (x : Descriptor) : State := { s with x := x }

/-- R22, R102 step 7: `CP <- (CP + 32) mod 2^32`. -/
def State.advance (s : State) : State := { s with cp := s.cp + 32 }

/-- The end of a data command: its destination bytes, `OLEN <- n`, and the advance of CP. -/
def State.finish (s : State) (dst : Word) (bs : List Byte) (n : Nat) : State :=
  ((s.withMem (s.mem.write dst.toNat bs)).withOlen n).advance

/-! ### Unspecified values (R70, R322, R35) -/

/-- The bytes of `(a, n)` take unspecified values (R70: "the model must treat each such byte as any value"). -/
def State.scribble (s : State) (a n : Nat) : State :=
  { s with
    mem := s.mem.write a ((List.range n).map fun i => Config.freeByte s.freeDraws (a + i))
    freeDraws := s.freeDraws + 1 }

/-- An unspecified LUT entry: draw `draw`, entry `i`. -/
def freeEntry (draw i : Nat) : LutEntry :=
  let w := Config.freeLut draw i
  { r := wordByte w 0, g := wordByte w 1, b := wordByte w 2, a := wordByte w 3 }

/-- The look-up table whose entry `i` is `f i`. -/
def lutOf (f : Nat → LutEntry) : Vector LutEntry 256 := ⟨((List.range 256).map f).toArray, by simp⟩

/-- `LUT[i]`. The rules read it only for `i < PALN ≤ 256`; past the end of the table it is all zero bytes. -/
def Palette.entry (p : Palette) (i : Nat) : LutEntry := p.lut.toList.getD i ⟨0, 0, 0, 0⟩

/-! ### Fault entry and the way out (R281, R300, R302, R322) -/

/-- R281: the code of a fault. -/
def EngineFault.code : EngineFault → Word
  | .illegalOp => 1
  | .illegalField => 2
  | .access => 3
  | .overlap => 4
  | .crcMismatch => 5
  | .badDepth => 6
  | .badChannels => 7
  | .badGeometry => 8
  | .sizeMismatch => 9
  | .badFilter => 10
  | .badInterlace => 11
  | .palLength => 12
  | .noPalette => 13
  | .palIndex => 14
  | .trnsCount => 15
  | .badDispose => 16
  | .badBlend => 17
  | .sampleRange => 18
  | .noCanvas => 19

/-- R300: fault entry, one indivisible step. Nothing else changes. -/
def State.raise (s : State) (f : Raise) : State :=
  { s with
    err := { errcode := f.kind.code, errcp := s.cp, errinfo0 := BitVec.ofNat 32 f.info0, errinfo1 := BitVec.ofNat 32 f.info1,
             errinfo2 := BitVec.ofNat 32 f.info2 }
    status := .err }

/-- R320, R322, R302: reset, hardware or soft. Every register takes the value of R50, `MEM` is not written, the LUT is
unspecified; it is the only way out of ERR. The open parameters are no state and stay. -/
def State.resetRegs (s : State) : State :=
  { State.resetWith s.config with
    mem := s.mem
    pal := { paln := 0, palc := 0, lut := lutOf (freeEntry s.freeDraws) }
    freeDraws := s.freeDraws + 1 }

end Sys2Proof.Machine
end

