-- ==== Sys2Proof/Machine/Flags.lean ====
section
/-!
DEFINITION. The flag-like bits of the engine.

10_state.md rule R23: "The engine has no condition codes and no predicate registers ... The only flag-like bits are the three
run-state bits of STATUS (rule R26) and the two option bits of CFG (rule R29)."  So there is no flag computation; this file
holds those bits as the host sees them.
-/

namespace Sys2Proof.Machine

/-- R26: STATUS as a word: bit 0 BUSY, bit 1 DONE, bit 2 ERR, the others 0. -/
def RunState.word : RunState → Word
  | .idle => 0
  | .busy => 1
  | .done => 2
  | .err => 4

/-- R29: CFG as a word: bit 0 CRCEN, bit 1 HLE, the others 0. -/
def CfgReg.word (c : CfgReg) : Word := (if c.hle then 2 else 0) + (if c.crcen then 1 else 0)

/-- R29: what a host write leaves in CFG; written values of bits 31 to 2 are ignored. -/
def CfgReg.ofWord (w : Word) : CfgReg := { crcen := w.getLsbD 0, hle := w.getLsbD 1 }

/-- R25: the bit GO of a value written to CTRL. -/
def ctrlGo (w : Word) : Bool := w.getLsbD 0

/-- R25: the bit RST of a value written to CTRL. -/
def ctrlRst (w : Word) : Bool := w.getLsbD 1

/-- R26: `STATUS.BUSY = 1`. -/
def State.isBusy (s : State) : Bool := s.status == .busy

end Sys2Proof.Machine
end

