-- ==== Sys2Proof/Machine/Operands.lean ====
section
/-!
DEFINITION. The checks a command makes of its fields, operands and ranges before it writes anything, and the faults they raise.

Sources: 30_encoding.md rule R97 (legal values), 20_memory.md rules R66 (range check) and R67 (overlap check), 60_exceptions.md
rules R281 (information words) and R296 (the first failing check is the one recorded).  Operands are used at face value (R93):
there is one operand form.
-/

namespace Sys2Proof.Machine

/-! ### Checks in order (R16, R296) -/

/-- R16: `require cond else raise f`. -/
def require (cond : Bool) (f : Raise) : Option Raise := if cond then none else some f

/-- R296: the first failing check of a list. -/
def firstRaise : List (Option Raise) → Option Raise
  | [] => none
  | some f :: _ => some f
  | none :: cs => firstRaise cs

/-! ### The faults and their information words (R281) -/

/-- R95: `ILLEGAL_OP(W0)`. -/
def raiseIllegalOp (w0 : Word) : Raise := ⟨.illegalOp, w0.toNat, 0, 0⟩

/-- R96: `ILLEGAL_FIELD(W0, pos)`. -/
def raiseIllegalField (w0 : Word) (pos : Nat) : Raise := ⟨.illegalField, w0.toNat, pos, 0⟩

/-- R66: `ACCESS(a, min(n, 2^32 − 1), k)`. -/
def raiseAccess (a n k : Nat) : Raise := ⟨.access, a, min n (2 ^ 32 - 1), k⟩

/-- R67: `OVERLAP(a, b, i · 256 + j)`. -/
def raiseOverlap (a b i j : Nat) : Raise := ⟨.overlap, a, b, i * 256 + j⟩

/-- R124: `CRC_MISMATCH(stored, computed, name)`. -/
def raiseCrcMismatch (stored computed name : Word) : Raise := ⟨.crcMismatch, stored.toNat, computed.toNat, name.toNat⟩

/-- `BAD_DEPTH(value)`. -/
def raiseBadDepth (v : Byte) : Raise := ⟨.badDepth, v.toNat, 0, 0⟩

/-- `BAD_CHANNELS(value)`. -/
def raiseBadChannels (v : Byte) : Raise := ⟨.badChannels, v.toNat, 0, 0⟩

/-- `BAD_GEOMETRY(first, second, kind)`. -/
def raiseBadGeometry (a b kind : Nat) : Raise := ⟨.badGeometry, a, b, kind⟩

/-- `SIZE_MISMATCH(found, min(expected, 2^32 − 1))`. -/
def raiseSizeMismatch (found expected : Nat) : Raise := ⟨.sizeMismatch, found, min expected (2 ^ 32 - 1), 0⟩

/-- `BAD_FILTER(tag, row)`. -/
def raiseBadFilter (tag : Byte) (row : Nat) : Raise := ⟨.badFilter, tag.toNat, row, 0⟩

/-- `BAD_INTERLACE(value)`. -/
def raiseBadInterlace (v : Byte) : Raise := ⟨.badInterlace, v.toNat, 0, 0⟩

/-- `PAL_LENGTH(bytelen, reason)`. -/
def raisePalLength (n : Word) (reason : Nat) : Raise := ⟨.palLength, n.toNat, reason, 0⟩

/-- `NO_PALETTE`. -/
def raiseNoPalette : Raise := ⟨.noPalette, 0, 0, 0⟩

/-- `PAL_INDEX(index, PALN, pixel)`. -/
def raisePalIndex (v : Byte) (paln : Word) (pixel : Nat) : Raise := ⟨.palIndex, v.toNat, paln.toNat, pixel⟩

/-- `TRNS_COUNT(m, PALN)`. -/
def raiseTrnsCount (m paln : Word) : Raise := ⟨.trnsCount, m.toNat, paln.toNat, 0⟩

/-- `BAD_DISPOSE(value)`. -/
def raiseBadDispose (v : Byte) : Raise := ⟨.badDispose, v.toNat, 0, 0⟩

/-- `BAD_BLEND(value)`. -/
def raiseBadBlend (v : Byte) : Raise := ⟨.badBlend, v.toNat, 0, 0⟩

/-- `SAMPLE_RANGE(sample, index, depth)`. -/
def raiseSampleRange (v : Byte) (index depth : Nat) : Raise := ⟨.sampleRange, v.toNat, index, depth⟩

/-- `NO_CANVAS`. -/
def raiseNoCanvas : Raise := ⟨.noCanvas, 0, 0, 0⟩

/-! ### Checks of mode fields and sizes (R97 and the command rules) -/

/-- Depth of UNPACK and PACK (R142, R143). -/
def checkSubByteDepth (d : Byte) : Option Raise := require ([1, 2, 4].contains d.toNat) (raiseBadDepth d)

/-- Depth of DEINT and INTL (R196, R197). -/
def checkImageDepth (d : Byte) : Option Raise := require ([1, 2, 4, 8, 16].contains d.toNat) (raiseBadDepth d)

/-- Depth of PALX (R225). -/
def checkIndexDepth (d : Byte) : Option Raise := require ([1, 2, 4, 8].contains d.toNat) (raiseBadDepth d)

/-- Bytes per sample of ACFG (R242). -/
def checkSampleBytes (ss : Byte) : Option Raise := require ([1, 2].contains ss.toNat) (raiseBadDepth ss)

/-- Channels of DEINT, INTL and ACFG: 1 to 4. -/
def checkChannels (c : Byte) : Option Raise := require (decide (1 ≤ c.toNat ∧ c.toNat ≤ 4)) (raiseBadChannels c)

/-- The interlace method of DEINT and INTL: 0 or 1. -/
def checkInterlace (il : Byte) : Option Raise := require (decide (il.toNat ≤ 1)) (raiseBadInterlace il)

/-- BAD_GEOMETRY kind 1: the filter distance is 1 to 8. -/
def checkBpp (bpp : Byte) : Option Raise :=
  require (decide (1 ≤ bpp.toNat ∧ bpp.toNat ≤ 8)) (raiseBadGeometry bpp.toNat 0 1)

/-- R175: the kind of FILT; the row word is 0xFFFFFFFF. -/
def checkKind (kind : Byte) : Option Raise := require (decide (kind.toNat ≤ 4)) (raiseBadFilter kind 0xFFFFFFFF)

/-- BAD_GEOMETRY kind 2: width and height are positive. -/
def checkSize (w h : Word) : Option Raise :=
  require (decide (1 ≤ w.toNat ∧ 1 ≤ h.toNat)) (raiseBadGeometry w.toNat h.toNat 2)

/-- R250: the dispose tag. -/
def checkDispose (d : Byte) : Option Raise := require (decide (d.toNat ≤ 2)) (raiseBadDispose d)

/-- R250: the blend tag. -/
def checkBlend (b : Byte) : Option Raise := require (decide (b.toNat ≤ 1)) (raiseBadBlend b)

/-- R197, R225: the claimed source length is the one the geometry implies. -/
def checkLength (found : Word) (expected : Nat) : Option Raise :=
  require (decide (found.toNat = expected)) (raiseSizeMismatch found.toNat expected)

/-! ### Ranges (R66, R67) -/

/-- R66: a range `(a, n)` of a command, with whether the command writes it. -/
structure MemRange where
  addr : Nat
  len : Nat
  written : Bool
  deriving DecidableEq, Repr

/-- A range the command only reads. -/
def readRange (a : Word) (n : Nat) : MemRange := ⟨a.toNat, n, false⟩

/-- A range the command writes. -/
def writeRange (a : Word) (n : Nat) : MemRange := ⟨a.toNat, n, true⟩

/-- R66: the range is admitted when `n = 0` or `a + n ≤ MEMSIZE`, without wrap-around. -/
def MemRange.admitted (r : MemRange) (memSize : Nat) : Bool := decide (r.len = 0 ∨ r.addr + r.len ≤ memSize)

/-- R66: the first range, from position `k` on, that is not admitted. -/
def accessFrom (memSize : Nat) : Nat → List MemRange → Option Raise
  | _, [] => none
  | k, r :: rs => if r.admitted memSize then accessFrom memSize (k + 1) rs else some (raiseAccess r.addr r.len k)

/-- R66: the range check of a command, positions counted from 1. -/
def checkRanges (s : State) (rs : List MemRange) : Option Raise := accessFrom s.config.memSize 1 rs

/-- R67: two ranges overlap. -/
def MemRange.overlaps (r q : MemRange) : Bool :=
  decide (0 < r.len ∧ 0 < q.len ∧ r.addr < q.addr + q.len ∧ q.addr < r.addr + r.len)

/-- R67: range `i` against the ranges from position `j` on. -/
def overlapWith (i : Nat) (r : MemRange) : Nat → List MemRange → Option Raise
  | _, [] => none
  | j, q :: qs =>
    if (r.written || q.written) && r.overlaps q then some (raiseOverlap r.addr q.addr i j) else overlapWith i r (j + 1) qs

/-- R67: the pairs `(i, j)`, `i < j`, in list order, from position `i` on. -/
def overlapFrom : Nat → List MemRange → Option Raise
  | _, [] => none
  | i, r :: rs =>
    match overlapWith i r (i + 1) rs with
    | some f => some f
    | none => overlapFrom (i + 1) rs

/-- R67: the overlap check of a command, positions counted from 1. -/
def checkOverlap (rs : List MemRange) : Option Raise := overlapFrom 1 rs

end Sys2Proof.Machine
end

