-- ==== Sys2Proof/Machine/BitDepth.lean ====
section
/-!
DEFINITION. Family 2, the bit-depth unit: UNPACK and PACK. 41_bitdepth.md rules R140 to R144.

R67: "the result of every data command except COMPOSE is a pure function of the bytes its read ranges held before the command",
so a command reads its whole source once, computes its destination bytes, and writes them once.
-/

namespace Sys2Proof.Machine

/-- R140: the bytes of one packed row of `spr` samples, `ceil(spr · d / 8)`. -/
def packedBytes (spr d : Nat) : Nat := divCeil (spr * d) 8

/-- R140: how far sample `i` of a row is shifted inside its byte: `8 − d − ((i · d) mod 8)`. -/
def laneShift (d i : Nat) : Nat := 8 - d - i * d % 8

/-- R140: sample `i` of the packed row `p`: `(p[floor(i·d/8)] >> shift) & (2^d − 1)`. -/
def laneOf (p : List Byte) (d i : Nat) : Byte :=
  (p.getD (i * d / 8) 0 >>> laneShift d i) &&& BitVec.ofNat 8 (2 ^ d - 1)

/-- R140: `unpack_row(p, d, spr)`. -/
def unpackRow (p : List Byte) (d spr : Nat) : List Byte := (List.range spr).map fun i => laneOf p d i

/-- R141: one step of `pack_row`: `out[k] <- out[k] | (s[i] << shift)`. -/
def packLane (s : List Byte) (d : Nat) (out : List Byte) (i : Nat) : List Byte :=
  out.modify (i * d / 8) fun b => b ||| (s.getD i 0 <<< laneShift d i)

/-- R141: `pack_row(s, d, spr)`. -/
def packRow (s : List Byte) (d spr : Nat) : List Byte :=
  (List.range spr).foldl (packLane s d) (zeros (packedBytes spr d))

/-- R142: the destination bytes of UNPACK from the source bytes `src`: `rows` rows, each starting a new byte (R144). A
row of no samples holds no byte. -/
def unpackRows (src : List Byte) (d spr rows : Nat) : List Byte :=
  if spr = 0 then [] else
    (List.range rows).flatMap fun r => unpackRow (slice src (r * packedBytes spr d) (packedBytes spr d)) d spr

/-- The first element of `s` that is not below `2^d`, with its index counted from `i`. -/
def firstWide (d : Nat) : Nat → List Byte → Option (Nat × Byte)
  | _, [] => none
  | i, v :: s => if v.toNat < 2 ^ d then firstWide d (i + 1) s else some (i, v)

/-- R143: the destination bytes of PACK from the source bytes `src`, or the first sample that does not fit. -/
def packRows (src : List Byte) (d spr rows : Nat) : Except Raise (List Byte) :=
  match firstWide d 0 src with
  | some (i, v) => .error (raiseSampleRange v (i % 2 ^ 32) d)
  | none =>
    .ok (if spr = 0 then [] else (List.range rows).flatMap fun r => packRow (slice src (r * spr) spr) d spr)

/-- R142: the ranges of UNPACK. -/
def unpackRanges (d : Byte) (src spr rows dst : Word) : List MemRange :=
  [readRange src (rows.toNat * packedBytes spr.toNat d.toNat), writeRange dst (rows.toNat * spr.toNat)]

/-- R142: the checks of UNPACK, in order. -/
def unpackCheck (d : Byte) (src spr rows dst : Word) (s : State) : Option Raise :=
  firstRaise [checkSubByteDepth d, checkRanges s (unpackRanges d src spr rows dst), checkOverlap (unpackRanges d src spr rows dst)]

/-- R142: `UNPACK.d src, spr, rows, dst`. -/
def execUnpack (d : Byte) (src spr rows dst : Word) (s : State) : Host.Outcome State Fault Refusal :=
  match unpackCheck d src spr rows dst s with
  | some f => .next (s.raise f)
  | none =>
    let bytes := s.mem.read src.toNat (rows.toNat * packedBytes spr.toNat d.toNat)
    .next (s.finish dst (unpackRows bytes d.toNat spr.toNat rows.toNat) (rows.toNat * spr.toNat))

/-- R143: the ranges of PACK. -/
def packRanges (d : Byte) (src spr rows dst : Word) : List MemRange :=
  [readRange src (rows.toNat * spr.toNat), writeRange dst (rows.toNat * packedBytes spr.toNat d.toNat)]

/-- R143: the checks of PACK before any write, in order. -/
def packCheck (d : Byte) (src spr rows dst : Word) (s : State) : Option Raise :=
  firstRaise [checkSubByteDepth d, checkRanges s (packRanges d src spr rows dst), checkOverlap (packRanges d src spr rows dst)]

/-- R143: `PACK.d src, spr, rows, dst`. SAMPLE_RANGE leaves the destination range unspecified (R70). -/
def execPack (d : Byte) (src spr rows dst : Word) (s : State) : Host.Outcome State Fault Refusal :=
  match packCheck d src spr rows dst s with
  | some f => .next (s.raise f)
  | none =>
    let n := rows.toNat * packedBytes spr.toNat d.toNat
    match packRows (s.mem.read src.toNat (rows.toNat * spr.toNat)) d.toNat spr.toNat rows.toNat with
    | .error f => .next ((s.scribble dst.toNat n).raise f)
    | .ok bytes => .next (s.finish dst bytes n)

end Sys2Proof.Machine
end

