-- ==== Sys2Proof/Machine/Checksum.lean ====
section
/-!
DEFINITION. Family 1, the checksum unit: CRC and CRCCHK. 40_crc.md rules R120, R122, R123, R124.
-/

namespace Sys2Proof.Machine

/-- R120: the reflected polynomial. -/
def crcPoly : Word := 0xEDB88320

/-- R120: one shift step: `c[0:0] = 1` gives `(c >> 1) ^ 0xEDB88320`, else `c >> 1`. -/
def crcShift (c : Word) : Word := if c.getLsbD 0 then (c >>> 1) ^^^ crcPoly else c >>> 1

/-- R120: "repeat `n` times" of the shift step. -/
def crcShifts : Nat → Word → Word
  | 0, c => c
  | n + 1, c => crcShifts n (crcShift c)

/-- R120: `crc_step(c, b)`: the byte enters the low 8 bits, then eight shift steps. -/
def crcStep (c : Word) (b : Byte) : Word := crcShifts 8 (c ^^^ b.setWidth 32)

/-- R120: `crc32(s)`, with initial value and final XOR 0xFFFFFFFF. -/
def crc32 (s : List Byte) : Word := s.foldl crcStep 0xFFFFFFFF ^^^ 0xFFFFFFFF

/-- R122: the table `T[n]`, a constant of the unit and no state (R36). -/
def crcTable (n : Byte) : Word := crcShifts 8 (n.setWidth 32)

/-- R122: `crc_step` through the table: `T[(c ^ b) & 0xFF] ^ (c >> 8)`. -/
def crcStepTable (c : Word) (b : Byte) : Word := crcTable ((c ^^^ b.setWidth 32).setWidth 8) ^^^ (c >>> 8)

/-- R123: the ranges of CRC. -/
def crcRanges (src len : Word) : List MemRange := [readRange src len.toNat]

/-- R123: `CRCR <- crc32(MemRead(x[1], x[2]))`. -/
def execCrc (src len : Word) (s : State) : Host.Outcome State Fault Refusal :=
  match checkRanges s (crcRanges src len) with
  | some f => .next (s.raise f)
  | none => .next (s.withCrcr (crc32 (s.mem.read src.toNat len.toNat))).advance

/-- R124: the ranges of CRCCHK: with CFG.CRCEN = 1 the covered bytes that end at CUR, then the stored checksum; with
CFG.CRCEN = 0 only the four bytes that are skipped. -/
def crcchkRanges (crclen : Word) (s : State) : List MemRange :=
  if s.cfg.crcen then [⟨s.cur.toNat - crclen.toNat, crclen.toNat, false⟩, readRange s.cur 4] else [readRange s.cur 4]

/-- R124: the check of CFG.CRCEN = 1 that the covered range does not start below address 0. -/
def checkCoveredStart (crclen : Word) (s : State) : Option Raise :=
  if s.cfg.crcen then require (decide (crclen.toNat ≤ s.cur.toNat)) (raiseAccess s.cur.toNat crclen.toNat 1) else none

/-- R124, R66: what CRCCHK checks before it reads: the start of the covered range, then its ranges in the order listed. DEDUCED (log
entry 18), unsafe: a covered range that ends above MEMSIZE raises R66's `ACCESS(CUR − crclen, crclen, 1)`, although the pseudocode
of R124 writes no check of that range and would go on to `ACCESS(CUR, 4, 2)`. -/
def crcchkCheck (crclen : Word) (s : State) : Option Raise :=
  firstRaise [checkCoveredStart crclen s, checkRanges s (crcchkRanges crclen s)]

/-- R124: `stored`, the big-endian word at CUR. -/
def storedChecksum (s : State) : Word := s.mem.word s.cur.toNat

/-- R124: `computed`, the checksum of the `crclen` bytes that end at CUR. -/
def computedChecksum (crclen : Word) (s : State) : Word :=
  crc32 (s.mem.read (s.cur.toNat - crclen.toNat) crclen.toNat)

/-- R124: `CRCCHK crclen, name`. CRCR is written before the comparison (R31); on any fault CUR is unchanged. -/
def execCrcchk (crclen name : Word) (s : State) : Host.Outcome State Fault Refusal :=
  match crcchkCheck crclen s with
  | some f => .next (s.raise f)
  | none =>
    if s.cfg.crcen then
      let stored := storedChecksum s
      let computed := computedChecksum crclen s
      if stored = computed then .next ((s.withCrcr computed).withCur (s.cur + 4)).advance
      else .next ((s.withCrcr computed).raise (raiseCrcMismatch stored computed name))
    else .next (s.withCur (s.cur + 4)).advance

end Sys2Proof.Machine
end

