-- ==== Sys2Proof/Machine/CompositorUnit.lean ====
section
/-!
DEFINITION. Family 6, the animation frame compositor: ACFG and COMPOSE. 45_compositor.md rules R240 to R245, R250, R252 to R254.

COMPOSE updates the canvas and the snapshot in place, in the order its rule gives (R67).
-/

namespace Sys2Proof.Machine

/-! ### ACFG (R242) -/

/-- R242: the checks of ACFG, in order. -/
def acfgCheck (channels ss : Byte) (width height : Word) : Option Raise :=
  firstRaise [checkChannels channels, checkSampleBytes ss, checkSize width height]

/-- R242: the compositor registers ACFG leaves. -/
def configured (channels ss : Byte) (canvas width height snap : Word) : Compositor :=
  { acanvas := canvas, asnap := snap, aw := width, ah := height, ach := channels.setWidth 32, ass := ss.setWidth 32,
    aframes := 0, apx := 0, apy := 0, apw := 0, aph := 0, apdisp := 0 }

/-- R242: `ACFG.channels.ss canvas, width, height, snap`; it touches no memory. -/
def execAcfg (channels ss : Byte) (canvas width height snap : Word) (s : State) : Host.Outcome State Fault Refusal :=
  match acfgCheck channels ss width height with
  | some f => .next (s.raise f)
  | none => .next (s.withComp (configured channels ss canvas width height snap)).advance

/-! ### OVER (R252, R253) -/

/-- R252: `maxv = 2^(8·ss) − 1`. -/
def sampleMax (ss : Nat) : Nat := 2 ^ (8 * ss) - 1

/-- R253: `floor((araw·f + (maxv − araw)·bg) / maxv)`. -/
def overBlend (ss f bg araw : Nat) : Nat := (araw * f + (sampleMax ss - araw) * bg) / sampleMax ss

/-- R253: OVER_LIT, the default: for the alpha channel the foreground is the sample value 1. -/
def overLit (ss : Nat) (isAlpha : Bool) (fg bg araw : Nat) : Nat := overBlend ss (if isAlpha then 1 else fg) bg araw

/-- R253: OVER_NORM: for the alpha channel the foreground is full scale. -/
def overNorm (ss : Nat) (isAlpha : Bool) (fg bg araw : Nat) : Nat :=
  overBlend ss (if isAlpha then sampleMax ss else fg) bg araw

/-- R252: the OVER of implementation `n`: whatever its free part, the result is a sample, (a) and (b) hold for the colour
channels, and (c) the alpha channel does not use `fg`. -/
def overOther (n ss : Nat) (isAlpha : Bool) (fg bg araw : Nat) : Nat :=
  if isAlpha then min (Config.overValue n ss true 0 bg araw) (sampleMax ss)
  else if araw = 0 then bg
  else if araw = sampleMax ss then fg
  else max (min fg bg) (min (Config.overValue n ss false fg bg araw) (max fg bg))

/-- R10: OVER, by the instance the configuration names. -/
def blendOver (inst : Config.OverInstance) (ss : Nat) (isAlpha : Bool) (fg bg araw : Nat) : Nat :=
  match inst with
  | .lit => overLit ss isAlpha fg bg araw
  | .norm => overNorm ss isAlpha fg bg araw
  | .other n => overOther n ss isAlpha fg bg araw

/-! ### Samples (R245) -/

/-- A number from its bytes, most significant first. -/
def beNat (bs : List Byte) : Nat := bs.foldl (fun acc b => acc * 256 + b.toNat) 0

/-- The `n` bytes of a number, most significant first. -/
def natBytes (n v : Nat) : List Byte := (List.range n).map fun k => BitVec.ofNat 8 (v / 256 ^ (n - 1 - k))

/-- The bytes of a sample in native order from wire order, or back: reversed on a little-endian host (R64 (c), (e)). -/
def nativeOrder (hle : Bool) (bs : List Byte) : List Byte := if hle then bs.reverse else bs

/-- R245: `sample(a)`: one byte, or two in native order. -/
def sampleAt (m : Memory) (hle : Bool) (ss a : Nat) : Nat := beNat (nativeOrder hle (m.read a ss))

/-- R245: the bytes `setsample(a, v)` writes at `a`. -/
def sampleBytes (hle : Bool) (ss v : Nat) : List Byte := nativeOrder hle (natBytes ss v)

/-! ### The steps of COMPOSE (R240, R243 to R245, R250, R254) -/

/-- R240: `px = ACH · ASS`. -/
def Compositor.px (c : Compositor) : Nat := c.ach.toNat * c.ass.toNat

/-- R240: `CB = AW · AH · px`. -/
def Compositor.cb (c : Compositor) : Nat := c.aw.toNat * c.ah.toNat * c.px

/-- R240: the address of canvas pixel (`x`, `y`). -/
def Compositor.pixelAddr (c : Compositor) (x y : Nat) : Nat := c.acanvas.toNat + (y * c.aw.toNat + x) * c.px

/-- R250: the effective rectangle and blend of a frame. -/
structure FrameRect where
  ex : Nat
  ey : Nat
  ew : Nat
  eh : Nat
  /-- The blend is "over". -/
  isOver : Bool
  deriving DecidableEq, Repr

/-- R250, R254: `(0, 0, AW, AH, source)` for the first frame, else what the operands say. -/
def effectiveRect (c : Compositor) (blend : Byte) (fw fh x y : Word) : FrameRect :=
  if c.aframes = 0 then ⟨0, 0, c.aw.toNat, c.ah.toNat, false⟩
  else ⟨x.toNat, y.toNat, fw.toNat, fh.toNat, blend != 0⟩

/-- R243: the rows of the previous frame's rectangle cleared to zero. -/
def clearRect (c : Compositor) (m : Memory) : Memory :=
  (List.range c.aph.toNat).foldl
    (fun m r => m.write (c.pixelAddr c.apx.toNat (c.apy.toNat + r)) (zeros (c.apw.toNat * c.px))) m

/-- R243: `dispose()`: 0 none, 1 background, 2 previous. APDISP holds no other value. -/
def disposePrevious (c : Compositor) (m : Memory) : Memory :=
  match c.apdisp.toNat with
  | 1 => clearRect c m
  | 2 => m.write c.acanvas.toNat (m.read c.asnap.toNat c.cb)
  | _ => m

/-- R245: the bytes "over" leaves in a canvas pixel at `dp` for the frame pixel at `sp`, all computed from the canvas
pixel as it was. -/
def overPixel (inst : Config.OverInstance) (hle : Bool) (c : Compositor) (m : Memory) (sp dp : Nat) : List Byte :=
  let ach := c.ach.toNat
  let ss := c.ass.toNat
  let araw := sampleAt m hle ss (sp + (ach - 1) * ss)
  (List.range ach).flatMap fun k =>
    sampleBytes hle ss
      (blendOver inst ss (decide (k = ach - 1)) (sampleAt m hle ss (sp + k * ss)) (sampleAt m hle ss (dp + k * ss)) araw)

/-- R244, R245: frame pixel (`col`, `row`) is drawn into the canvas. -/
def drawPixel (inst : Config.OverInstance) (hle : Bool) (c : Compositor) (src : Nat) (e : FrameRect) (row : Nat)
    (m : Memory) (col : Nat) : Memory :=
  let sp := src + (row * e.ew + col) * c.px
  let dp := c.pixelAddr (e.ex + col) (e.ey + row)
  m.write dp (if e.isOver then overPixel inst hle c m sp dp else m.read sp c.px)

/-- R250: the two loops of the blend, row-major. -/
def drawFrame (inst : Config.OverInstance) (hle : Bool) (c : Compositor) (src : Nat) (e : FrameRect) (m : Memory) :
    Memory :=
  (List.range e.eh).foldl (fun m row => (List.range e.ew).foldl (drawPixel inst hle c src e row) m) m

/-- R250, first two lines: the canvas before this frame is drawn (zeros before the first frame), saved to the snapshot. -/
def prepareCanvas (c : Compositor) (m : Memory) : Memory :=
  let m1 := if c.aframes = 0 then m.write c.acanvas.toNat (zeros c.cb) else disposePrevious c m
  m1.write c.asnap.toNat (m1.read c.acanvas.toNat c.cb)

/-- R250: the memory COMPOSE leaves. -/
def composeMemory (inst : Config.OverInstance) (hle : Bool) (c : Compositor) (src out : Nat) (e : FrameRect) (m : Memory) :
    Memory :=
  let m3 := drawFrame inst hle c src e (prepareCanvas c m)
  m3.write out (m3.read c.acanvas.toNat c.cb)

/-- R250: the registers recorded for the next frame; AFRAMES saturates. -/
def recordFrame (c : Compositor) (dispose : Byte) (e : FrameRect) : Compositor :=
  { c with
    apx := BitVec.ofNat 32 e.ex
    apy := BitVec.ofNat 32 e.ey
    apw := BitVec.ofNat 32 e.ew
    aph := BitVec.ofNat 32 e.eh
    apdisp := dispose.setWidth 32
    aframes := BitVec.ofNat 32 (min (c.aframes.toNat + 1) (2 ^ 32 - 1)) }

/-- R250: the ranges of COMPOSE: frame raster, canvas, snapshot, output. -/
def composeRanges (blend : Byte) (src fw fh out x y : Word) (s : State) : List MemRange :=
  let e := effectiveRect s.comp blend fw fh x y
  [readRange src (e.ew * e.eh * s.comp.px), writeRange s.comp.acanvas s.comp.cb, writeRange s.comp.asnap s.comp.cb,
   writeRange out s.comp.cb]

/-- R250: the checks of COMPOSE, in order, all before any write. -/
def composeCheck (dispose blend : Byte) (src fw fh out x y : Word) (s : State) : Option Raise :=
  let first := decide (s.comp.aframes = 0)
  firstRaise
    [checkDispose dispose, checkBlend blend, require (decide (s.comp.aw ≠ 0)) raiseNoCanvas,
     require (first || decide (1 ≤ fw.toNat ∧ 1 ≤ fh.toNat)) (raiseBadGeometry fw.toNat fh.toNat 3),
     require (first || decide (x.toNat + fw.toNat ≤ s.comp.aw.toNat ∧ y.toNat + fh.toNat ≤ s.comp.ah.toNat))
       (raiseBadGeometry x.toNat y.toNat 4),
     checkRanges s (composeRanges blend src fw fh out x y s), checkOverlap (composeRanges blend src fw fh out x y s)]

/-- R250: `COMPOSE.dispose.blend src, fw, fh, out, x, y`. -/
def execCompose (dispose blend : Byte) (src fw fh out x y : Word) (s : State) : Host.Outcome State Fault Refusal :=
  match composeCheck dispose blend src fw fh out x y s with
  | some f => .next (s.raise f)
  | none =>
    let e := effectiveRect s.comp blend fw fh x y
    let m := composeMemory s.config.overFn s.cfg.hle s.comp src.toNat out.toNat e s.mem
    .next (((s.withMem m).withComp (recordFrame s.comp dispose e)).withOlen s.comp.cb).advance

end Sys2Proof.Machine
end

