-- ==== Sys2Proof/Machine/Control.lean ====
section
/-!
DEFINITION. Family 0, the control commands HALT, NOP and SETCUR: 46_control.md rules R270, R271, R272.
-/

namespace Sys2Proof.Machine

/-- R270: `STATUS <- 2`; CP keeps the address of the HALT descriptor. -/
def execHalt (s : State) : Host.Outcome State Fault Refusal := .next (s.withStatus .done)

/-- R271: nothing but the advance of CP. -/
def execNop (s : State) : Host.Outcome State Fault Refusal := .next s.advance

/-- R272: `CUR <- x[1]`, any 32-bit value. -/
def execSetcur (addr : Word) (s : State) : Host.Outcome State Fault Refusal := .next (s.withCur addr).advance

end Sys2Proof.Machine
end

