-- ==== Sys2Proof/Machine/Filter.lean ====
section
/-!
DEFINITION. Family 3, the scanline filter unit: UNFILT and FILT, and the line and pass functions that DEINT and INTL share.
42_filter.md rules R160 to R167, R170, R175.

90_conflicts.md C1: only the final addition (and the forward subtraction) is modulo 256; the predictors are computed exactly.
-/

namespace Sys2Proof.Machine

/-- R160: the five filter kinds. -/
inductive FilterKind where
  | none | sub | up | average | paeth
  deriving DecidableEq, Repr

/-- R160: the tag of a kind. -/
def FilterKind.tag : FilterKind → Byte
  | .none => 0
  | .sub => 1
  | .up => 2
  | .average => 3
  | .paeth => 4

/-- R160: the kind of a tag; a tag above 4 has none. -/
def FilterKind.ofTag (t : Byte) : Option FilterKind :=
  match t.toNat with
  | 0 => some .none
  | 1 => some .sub
  | 2 => some .up
  | 3 => some .average
  | 4 => some .paeth
  | _ => Option.none

/-- R163: the Paeth predictor, on signed unbounded integers; ties go to `a`, then `b`, then `c`. -/
def paeth (a b c : Nat) : Nat :=
  let p : Int := (a : Int) + b - c
  let da := (p - a).natAbs
  let db := (p - b).natAbs
  let dc := (p - c).natAbs
  if da ≤ db ∧ da ≤ dc then a else if db ≤ dc then b else c

/-- R162: the predictor of each kind; `a + b` is the exact sum. -/
def pred (k : FilterKind) (a b c : Nat) : Nat :=
  match k with
  | .none => 0
  | .sub => a
  | .up => b
  | .average => (a + b) / 2
  | .paeth => paeth a b c

/-- R161: the byte `bpp` positions before position `i` of a line, zero for the first `bpp` positions. -/
def leftByte (line : List Byte) (bpp i : Nat) : Byte := if bpp ≤ i then line.getD (i - bpp) 0 else 0

/-- R161, R162: the predictor at position `i`, its neighbours taken from `line` (left) and `prev` (above, upper-left). -/
def predAt (k : FilterKind) (line prev : List Byte) (bpp i : Nat) : Byte :=
  BitVec.ofNat 8 (pred k (leftByte line bpp i).toNat (prev.getD i 0).toNat (leftByte prev bpp i).toNat)

/-- R164: the loop of `unfilter_line`: `cur` holds the bytes already produced, left to right. -/
def unfilterFrom (k : FilterKind) (prev : List Byte) (bpp : Nat) : List Byte → List Byte → List Byte
  | cur, [] => cur
  | cur, b :: f => unfilterFrom k prev bpp (cur ++ [b + predAt k cur prev bpp cur.length]) f

/-- R164: `unfilter_line(tag, f, prev, bpp)`. -/
def unfilterLine (k : FilterKind) (f prev : List Byte) (bpp : Nat) : List Byte := unfilterFrom k prev bpp [] f

/-- R165: `filter_line(kind, o, prev, bpp)`; the neighbours are original bytes. -/
def filterLine (k : FilterKind) (o prev : List Byte) (bpp : Nat) : List Byte :=
  (List.range o.length).map fun i => o.getD i 0 - predAt k o prev bpp i

/-- R166: rows `r`, `r + 1`, ... of a filtered stream, `n` of them, after the reconstructed line `prev`. -/
def unfilterRows (rb bpp : Nat) : (r n : Nat) → (s prev : List Byte) → Except Raise (List (List Byte))
  | _, 0, _, _ => .ok []
  | r, n + 1, s, prev =>
    let tag := s.getD 0 0
    match FilterKind.ofTag tag with
    | Option.none => .error (raiseBadFilter tag (r % 2 ^ 32))
    | some k =>
      let cur := unfilterLine k (slice s 1 rb) prev bpp
      match unfilterRows rb bpp (r + 1) n (s.drop (rb + 1)) cur with
      | .error f => .error f
      | .ok lines => .ok (cur :: lines)

/-- R166: `unfilter_pass(s, rb, rows, bpp)`; the previous line starts as zeros and is private to the pass. -/
def unfilterPass (s : List Byte) (rb rows bpp : Nat) : Except Raise (List (List Byte)) :=
  unfilterRows rb bpp 0 rows s (zeros rb)

/-- R167: the filtered stream of `lines` after the original line `prev`. -/
def filterRows (k : FilterKind) (bpp : Nat) : (lines : List (List Byte)) → (prev : List Byte) → List Byte
  | [], _ => []
  | o :: lines, prev => k.tag :: filterLine k o prev bpp ++ filterRows k bpp lines o

/-- R167: `filter_pass(kind, line, rb, rows, bpp)`. -/
def filterPass (k : FilterKind) (lines : List (List Byte)) (rb bpp : Nat) : List Byte := filterRows k bpp lines (zeros rb)

/-- `rows` consecutive rows of `rb` bytes. -/
def rowsOf (s : List Byte) (rb rows : Nat) : List (List Byte) := (List.range rows).map fun r => slice s (r * rb) rb

/-- R170: the ranges of UNFILT. -/
def unfiltRanges (src rb rows dst : Word) : List MemRange :=
  [readRange src (rows.toNat * (rb.toNat + 1)), writeRange dst (rows.toNat * rb.toNat)]

/-- R170: the checks of UNFILT before any write, in order. -/
def unfiltCheck (bpp : Byte) (src rb rows dst : Word) (s : State) : Option Raise :=
  firstRaise [checkBpp bpp, checkRanges s (unfiltRanges src rb rows dst), checkOverlap (unfiltRanges src rb rows dst)]

/-- R170: `UNFILT.bpp src, rb, rows, dst`. BAD_FILTER leaves the destination range unspecified (R70). -/
def execUnfilt (bpp : Byte) (src rb rows dst : Word) (s : State) : Host.Outcome State Fault Refusal :=
  match unfiltCheck bpp src rb rows dst s with
  | some f => .next (s.raise f)
  | none =>
    let n := rows.toNat * rb.toNat
    match unfilterPass (s.mem.read src.toNat (rows.toNat * (rb.toNat + 1))) rb.toNat rows.toNat bpp.toNat with
    | .error f => .next ((s.scribble dst.toNat n).raise f)
    | .ok lines => .next (s.finish dst lines.flatten n)

/-- R175: the ranges of FILT. -/
def filtRanges (src rb rows dst : Word) : List MemRange :=
  [readRange src (rows.toNat * rb.toNat), writeRange dst (rows.toNat * (rb.toNat + 1))]

/-- R175: the checks of FILT, in order: `bpp` before the kind. -/
def filtCheck (bpp kind : Byte) (src rb rows dst : Word) (s : State) : Option Raise :=
  firstRaise [checkBpp bpp, checkKind kind, checkRanges s (filtRanges src rb rows dst), checkOverlap (filtRanges src rb rows dst)]

/-- R175: the kind FILT applies once the check of its field has passed. -/
def filtKind (kind : Byte) : FilterKind := (FilterKind.ofTag kind).getD .none

/-- R175: `FILT.bpp.kind src, rb, rows, dst`: one kind for every row. -/
def execFilt (bpp kind : Byte) (src rb rows dst : Word) (s : State) : Host.Outcome State Fault Refusal :=
  match filtCheck bpp kind src rb rows dst s with
  | some f => .next (s.raise f)
  | none =>
    let lines := rowsOf (s.mem.read src.toNat (rows.toNat * rb.toNat)) rb.toNat rows.toNat
    .next (s.finish dst (filterPass (filtKind kind) lines rb.toNat bpp.toNat) (rows.toNat * (rb.toNat + 1)))

end Sys2Proof.Machine
end

