-- ==== Sys2Proof/Machine/Interlace.lean ====
section
/-!
DEFINITION. Family 4, the interlace unit: DEINT, INTL and SWAP16. 43_interlace.md rules R190 to R199.
-/

namespace Sys2Proof.Machine

/-! ### Passes (R190, R191) -/

/-- R190: one row of the pass table. -/
structure Pass where
  /-- x-offset -/
  xo : Nat
  /-- y-offset -/
  yo : Nat
  /-- x-stride -/
  xs : Nat
  /-- y-stride -/
  ys : Nat
  deriving DecidableEq, Repr

/-- R190: the seven passes, in order; a constant of the unit and no state (R37). -/
def sevenPasses : List Pass :=
  [⟨0, 0, 8, 8⟩, ⟨4, 0, 8, 8⟩, ⟨0, 4, 4, 8⟩, ⟨2, 0, 4, 4⟩, ⟨0, 2, 2, 4⟩, ⟨1, 0, 2, 2⟩, ⟨0, 1, 1, 2⟩]

/-- R190: the pass list of an interlace method; method 0 is the single pass (0, 0, 1, 1). -/
def passesOf (il : Nat) : List Pass := if il = 0 then [⟨0, 0, 1, 1⟩] else sevenPasses

/-- R191: `pw`, the width of a pass in pixels. -/
def Pass.width (p : Pass) (w : Nat) : Nat := if p.xo < w then divCeil (w - p.xo) p.xs else 0

/-- R191: `ph`, the height of a pass in rows. -/
def Pass.height (p : Pass) (h : Nat) : Nat := if p.yo < h then divCeil (h - p.yo) p.ys else 0

/-- R191: the non-empty passes, in order. -/
def livePasses (il w h : Nat) : List Pass := (passesOf il).filter fun p => p.width w != 0 && p.height h != 0

/-! ### Sizes (R192, R193) -/

/-- R192: `bpp = ceil(depth / 8) · channels`. -/
def bppOf (depth channels : Nat) : Nat := divCeil depth 8 * channels

/-- R192: `rb(pw) = ceil(pw · channels · depth / 8)`. -/
def passRowBytes (depth channels pw : Nat) : Nat := divCeil (pw * channels * depth) 8

/-- R192: `pix`, the bytes of one pixel in the raster. -/
def pixBytes (depth channels : Nat) : Nat := if depth < 8 then channels else bppOf depth channels

/-- R193: the bytes of one pass in the stream, `ph · (1 + rb(pw))`. -/
def passBytes (depth channels w h : Nat) (p : Pass) : Nat := p.height h * (1 + passRowBytes depth channels (p.width w))

/-- R193: `stream_len(depth, channels, il, W, H)`. -/
def streamLen (depth channels il w h : Nat) : Nat := ((livePasses il w h).map (passBytes depth channels w h)).sum

/-- `W · H · pix`, the bytes of the raster (R194). -/
def rasterBytes (depth channels w h : Nat) : Nat := w * h * pixBytes depth channels

/-! ### Reassembly (R195) -/

/-- R195: the byte offset in the raster of pixel (`row`, `col`) of a pass: `((yo + row·ys)·W + (xo + col·xs)) · pix`. -/
def pixelOffset (p : Pass) (w pix row col : Nat) : Nat := ((p.yo + row * p.ys) * w + (p.xo + col * p.xs)) * pix

/-- R195: a reconstructed pass row as raster bytes: unpacked for `depth < 8`, as it is otherwise. -/
def rasterRow (depth channels pw : Nat) (line : List Byte) : List Byte :=
  if depth < 8 then unpackRow line depth (pw * channels) else line

/-- R195: the pixels of one pass row are scattered into the raster. -/
def scatterRow (p : Pass) (w pix pw row : Nat) (q raster : List Byte) : List Byte :=
  (List.range pw).foldl (fun out col => putAt out (pixelOffset p w pix row col) (slice q (col * pix) pix)) raster

/-- R195: the rows of one pass, from row number `row` on. -/
def scatterRows (depth channels w : Nat) (p : Pass) : (row : Nat) → (lines : List (List Byte)) → (raster : List Byte) → List Byte
  | _, [], raster => raster
  | row, line :: lines, raster =>
    scatterRows depth channels w p (row + 1) lines
      (scatterRow p w (pixBytes depth channels) (p.width w) row (rasterRow depth channels (p.width w) line) raster)

/-- R195: the passes of the list, each unfiltered on its own stretch of the stream, then scattered. -/
def reassemblePasses (depth channels w h : Nat) : (ps : List Pass) → (s raster : List Byte) → Except Raise (List Byte)
  | [], _, raster => .ok raster
  | p :: ps, s, raster =>
    let n := passBytes depth channels w h p
    match unfilterPass (s.take n) (passRowBytes depth channels (p.width w)) (p.height h) (bppOf depth channels) with
    | .error f => .error f
    | .ok lines => reassemblePasses depth channels w h ps (s.drop n) (scatterRows depth channels w p 0 lines raster)

/-- R195: `reassemble(depth, channels, il, s, W, H)`. Every raster byte is written, so what it starts from is not seen. -/
def reassemble (depth channels il : Nat) (s : List Byte) (w h : Nat) : Except Raise (List Byte) :=
  reassemblePasses depth channels w h (livePasses il w h) s (zeros (rasterBytes depth channels w h))

/-! ### Decomposition (R195) -/

/-- R195: the bytes of the pixels of one pass row, gathered from the raster. -/
def gatherRow (p : Pass) (w pix pw row : Nat) (raster : List Byte) : List Byte :=
  (List.range pw).flatMap fun col => slice raster (pixelOffset p w pix row col) pix

/-- R195: the byte offset in the raster of byte `j` of a gathered row. -/
def gatherOffset (p : Pass) (w pix row j : Nat) : Nat := pixelOffset p w pix row (j / pix) + j % pix

/-- R195: one row of a pass in the stream: tag 0, then the row, packed for `depth < 8`; or its first sample that does not
fit, with the byte offset of that sample in the raster. -/
def streamRow (depth channels w : Nat) (raster : List Byte) (p : Pass) (row : Nat) : Except Raise (List Byte) :=
  let pix := pixBytes depth channels
  let q := gatherRow p w pix (p.width w) row raster
  if depth < 8 then
    match firstWide depth 0 q with
    | some (j, v) => .error (raiseSampleRange v (gatherOffset p w pix row j % 2 ^ 32) depth)
    | none => .ok (FilterKind.tag .none :: packRow q depth (p.width w * channels))
  else .ok (FilterKind.tag .none :: q)

/-- The concatenation of the results of `f`, in order, or the first failure. -/
def joinRows {α : Type} (f : α → Except Raise (List Byte)) : List α → Except Raise (List Byte)
  | [] => .ok []
  | a :: as =>
    match f a with
    | .error e => .error e
    | .ok bs =>
      match joinRows f as with
      | .error e => .error e
      | .ok cs => .ok (bs ++ cs)

/-- R195: `decompose(depth, channels, il, raster, W, H)`. -/
def decompose (depth channels il : Nat) (raster : List Byte) (w h : Nat) : Except Raise (List Byte) :=
  joinRows (fun p => joinRows (streamRow depth channels w raster p) (List.range (p.height h))) (livePasses il w h)

/-! ### DEINT (R196) -/

/-- R196: the ranges of DEINT. -/
def deintRanges (depth channels il : Byte) (src width height dst : Word) : List MemRange :=
  [readRange src (streamLen depth.toNat channels.toNat il.toNat width.toNat height.toNat),
   writeRange dst (rasterBytes depth.toNat channels.toNat width.toNat height.toNat)]

/-- R196: the checks of DEINT before any write, in order. -/
def deintCheck (depth channels il : Byte) (src width height dst : Word) (s : State) : Option Raise :=
  firstRaise
    [checkImageDepth depth, checkChannels channels, checkInterlace il, checkSize width height,
     checkRanges s (deintRanges depth channels il src width height dst),
     checkOverlap (deintRanges depth channels il src width height dst)]

/-- R196: `DEINT.depth.channels.il src, width, height, dst`. BAD_FILTER leaves the destination range unspecified (R70). -/
def execDeint (depth channels il : Byte) (src width height dst : Word) (s : State) : Host.Outcome State Fault Refusal :=
  match deintCheck depth channels il src width height dst s with
  | some f => .next (s.raise f)
  | none =>
    let n := rasterBytes depth.toNat channels.toNat width.toNat height.toNat
    let blob := s.mem.read src.toNat (streamLen depth.toNat channels.toNat il.toNat width.toNat height.toNat)
    match reassemble depth.toNat channels.toNat il.toNat blob width.toNat height.toNat with
    | .error f => .next ((s.scribble dst.toNat n).raise f)
    | .ok raster => .next (s.finish dst raster n)

/-! ### INTL (R197) -/

/-- R197: the ranges of INTL. -/
def intlRanges (depth channels il : Byte) (src width height dst : Word) : List MemRange :=
  [readRange src (rasterBytes depth.toNat channels.toNat width.toNat height.toNat),
   writeRange dst (streamLen depth.toNat channels.toNat il.toNat width.toNat height.toNat)]

/-- R197: the checks of INTL before any write, in order. -/
def intlCheck (depth channels il : Byte) (src width height dst srclen : Word) (s : State) : Option Raise :=
  firstRaise
    [checkImageDepth depth, checkChannels channels, checkInterlace il, checkSize width height,
     checkLength srclen (rasterBytes depth.toNat channels.toNat width.toNat height.toNat),
     checkRanges s (intlRanges depth channels il src width height dst),
     checkOverlap (intlRanges depth channels il src width height dst)]

/-- R197: `INTL.depth.channels.il src, width, height, dst, srclen`. SAMPLE_RANGE leaves the destination range
unspecified (R70). -/
def execIntl (depth channels il : Byte) (src width height dst srclen : Word) (s : State) :
    Host.Outcome State Fault Refusal :=
  match intlCheck depth channels il src width height dst srclen s with
  | some f => .next (s.raise f)
  | none =>
    let n := streamLen depth.toNat channels.toNat il.toNat width.toNat height.toNat
    let raster := s.mem.read src.toNat (rasterBytes depth.toNat channels.toNat width.toNat height.toNat)
    match decompose depth.toNat channels.toNat il.toNat raster width.toNat height.toNat with
    | .error f => .next ((s.scribble dst.toNat n).raise f)
    | .ok stream => .next (s.finish dst stream n)

/-! ### SWAP16 (R199) -/

/-- R199: `n` two-byte samples, each with its bytes exchanged when `hle`. -/
def swapSamples (hle : Bool) : List Byte → List Byte
  | b0 :: b1 :: bs => (if hle then [b1, b0] else [b0, b1]) ++ swapSamples hle bs
  | bs => bs

/-- R199: the ranges of SWAP16. -/
def swap16Ranges (src n dst : Word) : List MemRange := [readRange src (2 * n.toNat), writeRange dst (2 * n.toNat)]

/-- R199: the checks of SWAP16. -/
def swap16Check (src n dst : Word) (s : State) : Option Raise :=
  firstRaise [checkRanges s (swap16Ranges src n dst), checkOverlap (swap16Ranges src n dst)]

/-- R199: `SWAP16 src, n, dst`; with CFG.HLE = 0 a copy. -/
def execSwap16 (src n dst : Word) (s : State) : Host.Outcome State Fault Refusal :=
  match swap16Check src n dst s with
  | some f => .next (s.raise f)
  | none => .next (s.finish dst (swapSamples s.cfg.hle (s.mem.read src.toNat (2 * n.toNat))) (2 * n.toNat))

end Sys2Proof.Machine
end

