-- ==== Sys2Proof/Machine/PaletteUnit.lean ====
section
/-!
DEFINITION. Family 5, the palette unit: PALLD, PALTR and PALX. 44_palette.md rules R220, R221, R223, R224, R225.
-/

namespace Sys2Proof.Machine

/-! ### PALLD (R221) -/

/-- R221: the range of PALLD. -/
def palldRanges (src bytelen : Word) : List MemRange := [readRange src bytelen.toNat]

/-- R221: the checks of PALLD, in order. -/
def palldCheck (src bytelen : Word) (s : State) : Option Raise :=
  firstRaise
    [require (decide (bytelen.toNat % 3 = 0)) (raisePalLength bytelen 1),
     require (decide (bytelen.toNat / 3 ≤ 256)) (raisePalLength bytelen 2),
     checkRanges s (palldRanges src bytelen)]

/-- R221: entry `i` of a palette body at `src`: its RGB triple, fully opaque. -/
def bodyEntry (m : Memory) (src i : Nat) : LutEntry :=
  { r := m.byte (src + 3 * i), g := m.byte (src + 3 * i + 1), b := m.byte (src + 3 * i + 2), a := 255 }

/-- R221: the palette PALLD leaves: `n` entries from the body; the entries at or above `n` are unspecified (R35). -/
def loadedPalette (m : Memory) (src n draw : Nat) : Palette :=
  { paln := BitVec.ofNat 32 n, palc := 3, lut := lutOf fun i => if i < n then bodyEntry m src i else freeEntry draw i }

/-- R221: `PALLD src, bytelen`. -/
def execPalld (src bytelen : Word) (s : State) : Host.Outcome State Fault Refusal :=
  match palldCheck src bytelen s with
  | some f => .next (s.raise f)
  | none =>
    .next { s.withPal (loadedPalette s.mem src.toNat (bytelen.toNat / 3) s.freeDraws) with freeDraws := s.freeDraws + 1 }.advance

/-! ### PALTR (R223) -/

/-- R223: the range of PALTR. -/
def paltrRanges (src m : Word) : List MemRange := [readRange src m.toNat]

/-- R223: the checks of PALTR, in order. -/
def paltrCheck (src m : Word) (s : State) : Option Raise :=
  firstRaise
    [require (decide (m.toNat ≤ s.pal.paln.toNat)) (raiseTrnsCount m s.pal.paln), checkRanges s (paltrRanges src m)]

/-- R223: the palette with its first `m` alphas from memory, the others below PALN fully opaque, and PALC = 4. Entries at
or above PALN are not written. -/
def withAlphas (p : Palette) (mem : Memory) (src m : Nat) : Palette :=
  { p with
    palc := 4
    lut := lutOf fun i =>
      if i < m then { p.entry i with a := mem.byte (src + i) }
      else if i < p.paln.toNat then { p.entry i with a := 255 }
      else p.entry i }

/-- R223: `PALTR src, m`. -/
def execPaltr (src m : Word) (s : State) : Host.Outcome State Fault Refusal :=
  match paltrCheck src m s with
  | some f => .next (s.raise f)
  | none => .next (s.withPal (withAlphas s.pal s.mem src.toNat m.toNat)).advance

/-! ### PALX (R224, R225) -/

/-- R224: `rbw = ceil(W · depth / 8)`. -/
def indexRowBytes (depth w : Nat) : Nat := divCeil (w * depth) 8

/-- R220: the bytes of an entry in order. -/
def LutEntry.bytes (e : LutEntry) : List Byte := [e.r, e.g, e.b, e.a]

/-- R224: the indices of one row: unpacked for `depth < 8`, the row itself for `depth = 8`. -/
def rowIndices (depth w : Nat) (row : List Byte) : List Byte := if depth < 8 then unpackRow row depth w else row

/-- R224: the pixels of indices `idx`, the first of them pixel number `pixel`, or the first index at or above PALN. -/
def expandIndices (p : Palette) : (pixel : Nat) → (idx : List Byte) → Except Raise (List Byte)
  | _, [] => .ok []
  | pixel, v :: idx =>
    if v.toNat < p.paln.toNat then
      match expandIndices p (pixel + 1) idx with
      | .error f => .error f
      | .ok out => .ok ((p.entry v.toNat).bytes.take p.palc.toNat ++ out)
    else .error (raisePalIndex v p.paln (pixel % 2 ^ 32))

/-- R224: `expand(depth, p, W, H)`: the indices of the `H` rows, row-major, each through the LUT. -/
def expand (p : Palette) (depth : Nat) (src : List Byte) (w h : Nat) : Except Raise (List Byte) :=
  expandIndices p 0
    ((List.range h).flatMap fun y => rowIndices depth w (slice src (y * indexRowBytes depth w) (indexRowBytes depth w)))

/-- R225: the ranges of PALX. -/
def palxRanges (depth : Byte) (src width height dst : Word) (s : State) : List MemRange :=
  [readRange src (height.toNat * indexRowBytes depth.toNat width.toNat),
   writeRange dst (width.toNat * height.toNat * s.pal.palc.toNat)]

/-- R225: the checks of PALX before any write, in order: the geometry check precedes NO_PALETTE. -/
def palxCheck (depth : Byte) (src width height dst srclen : Word) (s : State) : Option Raise :=
  firstRaise
    [checkIndexDepth depth, checkSize width height, require (decide (1 ≤ s.pal.paln.toNat)) raiseNoPalette,
     checkLength srclen (height.toNat * indexRowBytes depth.toNat width.toNat),
     checkRanges s (palxRanges depth src width height dst s), checkOverlap (palxRanges depth src width height dst s)]

/-- R225: `PALX.depth src, width, height, dst, srclen`. PAL_INDEX leaves the destination range unspecified (R70). -/
def execPalx (depth : Byte) (src width height dst srclen : Word) (s : State) : Host.Outcome State Fault Refusal :=
  match palxCheck depth src width height dst srclen s with
  | some f => .next (s.raise f)
  | none =>
    let n := width.toNat * height.toNat * s.pal.palc.toNat
    match expand s.pal depth.toNat (s.mem.read src.toNat srclen.toNat) width.toNat height.toNat with
    | .error f => .next ((s.scribble dst.toNat n).raise f)
    | .ok out => .next (s.finish dst out n)

end Sys2Proof.Machine
end

