-- ==== Sys2Proof/Machine/Dispatch.lean ====
section
/-! DEFINITION. Which meaning each command has: 30_encoding.md rule R102 step 6 ("execute the command's rule"). -/

namespace Sys2Proof.Machine

def exec (i : Instr) (s : State) : Host.Outcome State Fault Refusal :=
  match i with
  | .halt => Sys2Proof.Machine.execHalt s
  | .nop => Sys2Proof.Machine.execNop s
  | .setcur addr => Sys2Proof.Machine.execSetcur addr s
  | .crc src len => Sys2Proof.Machine.execCrc src len s
  | .crcchk crclen name => Sys2Proof.Machine.execCrcchk crclen name s
  | .unpack d src spr rows dst => Sys2Proof.Machine.execUnpack d src spr rows dst s
  | .pack d src spr rows dst => Sys2Proof.Machine.execPack d src spr rows dst s
  | .unfilt bpp src rb rows dst => Sys2Proof.Machine.execUnfilt bpp src rb rows dst s
  | .filt bpp kind src rb rows dst => Sys2Proof.Machine.execFilt bpp kind src rb rows dst s
  | .deint depth channels il src width height dst => Sys2Proof.Machine.execDeint depth channels il src width height dst s
  | .intl depth channels il src width height dst srclen => Sys2Proof.Machine.execIntl depth channels il src width height dst srclen s
  | .swap16 src n dst => Sys2Proof.Machine.execSwap16 src n dst s
  | .palld src bytelen => Sys2Proof.Machine.execPalld src bytelen s
  | .paltr src m => Sys2Proof.Machine.execPaltr src m s
  | .palx depth src width height dst srclen => Sys2Proof.Machine.execPalx depth src width height dst srclen s
  | .acfg channels ss canvas width height snap => Sys2Proof.Machine.execAcfg channels ss canvas width height snap s
  | .compose dispose blend src fw fh out x y => Sys2Proof.Machine.execCompose dispose blend src fw fh out x y s

end Sys2Proof.Machine
end

