-- ==== Sys2Proof/Machine/Fetch.lean ====
section
/-!
DEFINITION. Fetching a descriptor and placing one: 30_encoding.md rule R102 steps 1 to 5, 20_memory.md rules R63 and R66,
70_reset_and_hazards.md rule R325.
-/

namespace Sys2Proof.Machine

/-- R102 step 1: `CP + 32 ≤ MEMSIZE`, without wrap-around. -/
def State.canFetch (s : State) : Bool := decide (s.cp.toNat + 32 ≤ s.config.memSize)

/-- The descriptor at CP. -/
def State.descriptorAtCp (s : State) : Descriptor := s.mem.descriptor s.cp.toNat

/-- R102 step 2: the state with the latches loaded from the descriptor at CP. -/
def State.fetched (s : State) : State := s.withLatches s.descriptorAtCp

/-- R102 step 1: the fault of a descriptor outside MEM, `ACCESS(CP, 32, 0)`. -/
def fetchFault (s : State) : Raise := raiseAccess s.cp.toNat 32 0

/-- R102 steps 4 and 5: the fault of a descriptor that is no command. A fetch never gives fewer than 32 bytes. -/
def rejectFault (x : Descriptor) : DecodeReject → Raise
  | .illegalOp w0 => raiseIllegalOp w0
  | .illegalField w0 pos => raiseIllegalField w0 pos
  | .truncated => raiseIllegalOp x[0]

/-- The state with the descriptor `x` placed where the next step fetches, and the engine running: the descriptor's 32 bytes at
CP and STATUS = BUSY (what R325's steps 2, 5 and 6 leave). If 32 bytes do not fit at CP, CP is set to 0 (log entry 7). -/
def State.placeAtCp (s : State) (x : Descriptor) : State :=
  let s1 := if s.canFetch then s else { s with cp := 0 }
  (s1.withMem (s1.mem.write s1.cp.toNat (descriptorBytes x))).withStatus .busy

end Sys2Proof.Machine
end

