-- ==== Sys2Proof/Machine/Step.lean ====
section
/-!
DEFINITION. One step of the engine: 30_encoding.md rule R102 while BUSY, and 60_exceptions.md rule R310 otherwise ("A stopped
engine (IDLE, DONE or ERR) does nothing until the host acts").
-/

namespace Sys2Proof.Machine

/-- R102: fetch, decode, execute. A fault at any point is the state after fault entry (R300), with the latches loaded unless
the fetch itself faulted. -/
def step (s : State) : Host.Outcome State Fault Refusal :=
  if s.isBusy then
    if s.canFetch then
      match decode s.descriptorAtCp with
      | .ok i => exec i s.fetched
      | .error e => .next (s.fetched.raise (rejectFault s.descriptorAtCp e))
    else .next (s.raise (fetchFault s))
  else .next s

/-- `s` with the descriptor whose bits are `w` (bits at or above `nbits` zero) placed where the next step fetches it. -/
def State.withFetchWord (s : State) (nbits w : Nat) : State := s.placeAtCp (tableDescriptor nbits w)

end Sys2Proof.Machine
end

