-- ==== Sys2Proof/Machine/HostPort.lean ====
section
/-!
DEFINITION. The host: what it can read, what it can do, and when. 10_state.md rules R24 to R30, 70_reset_and_hazards.md rules
R320, R322, R323, R325, R331, R333.

The engine's `step` takes no input; the host's moves are functions of their own beside it.  A move that R27 and R333 put
outside the model is refused by name.
-/

namespace Sys2Proof.Machine

/-! ### Reading registers (R24, R28) -/

/-- R24: the value of register number `n`; CTRL reads 0 (R25) and reserved numbers read 0 (R28). -/
def State.register (s : State) (n : Nat) : Word :=
  match n with
  | 0x01 => s.status.word
  | 0x02 => s.cfg.word
  | 0x03 => s.cp
  | 0x04 => s.cur
  | 0x05 => s.crcr
  | 0x06 => s.olen
  | 0x07 => s.err.errcode
  | 0x08 => s.err.errcp
  | 0x09 => s.err.errinfo0
  | 0x0A => s.err.errinfo1
  | 0x0B => s.err.errinfo2
  | 0x0C => s.pal.paln
  | 0x0D => s.pal.palc
  | 0x10 => s.comp.acanvas
  | 0x11 => s.comp.asnap
  | 0x12 => s.comp.aw
  | 0x13 => s.comp.ah
  | 0x14 => s.comp.ach
  | 0x15 => s.comp.ass
  | 0x16 => s.comp.aframes
  | 0x17 => s.comp.apx
  | 0x18 => s.comp.apy
  | 0x19 => s.comp.apw
  | 0x1A => s.comp.aph
  | 0x1B => s.comp.apdisp
  | 0x20 => s.x[0]
  | 0x21 => s.x[1]
  | 0x22 => s.x[2]
  | 0x23 => s.x[3]
  | 0x24 => s.x[4]
  | 0x25 => s.x[5]
  | 0x26 => s.x[6]
  | 0x27 => s.x[7]
  | _ => 0

/-- R333: the host reads register `n`: STATUS in any state, any other only while not BUSY; no side effect. -/
def hostReadReg (s : State) (n : Nat) : Except Refusal Word :=
  if s.isBusy && n != 0x01 then .error .hostAccessWhileBusy else .ok (s.register n)

/-- R333: the host reads a byte of MEM while not BUSY; no side effect (R69). An address at or above MEMSIZE does not exist (log
entry 9). One byte an access is a DESIGN CHOICE (log entry 19), safe: R333 leaves the width of an access open. -/
def hostReadMem (s : State) (a : Nat) : Except (Fault ⊕ Refusal) Byte :=
  if s.isBusy then .error (.inr .hostAccessWhileBusy)
  else if a < s.config.memSize then .ok (s.mem.byte a)
  else .error (.inl (.noSuchAddress a))

/-! ### The host's moves (R333) -/

/-- A move of the host that may change the engine's state. -/
inductive HostAction where
  /-- R320: the reset input is asserted and released. -/
  | hardReset
  /-- R322: `CTRL.RST` (or the reset input) reaches a BUSY engine in the middle of the command at CP, not between commands. -/
  | resetDuringCommand
  /-- A write of a whole 32-bit value to register number `n`. -/
  | writeReg (n : Nat) (v : Word)
  /-- A write of one byte of MEM. -/
  | writeMem (a : Nat) (b : Byte)
  deriving DecidableEq, Repr

/-- R323: `GO` in state IDLE or DONE starts execution at CP; in ERR it is ignored, and so it is in BUSY
(93_implementation_defined.md U15). -/
def hostGo (s : State) : State :=
  match s.status with
  | .idle => s.withStatus .busy
  | .done => s.withStatus .busy
  | .busy => s
  | .err => s

/-- R25, R322, R323: a write to CTRL. RST acts in every run state and wins over GO. In BUSY a GO is ignored, as
93_implementation_defined.md U15 rules; DEDUCED (log entry 20), unsafe, because R27 and R333 forbid the host to write it. A write of
neither bit while BUSY is no move of the host (R27). -/
def hostWriteCtrl (s : State) (v : Word) : Host.Outcome State Fault Refusal :=
  if ctrlRst v then .next s.resetRegs
  else if ctrlGo v then .next (hostGo s)
  else if s.isBusy then .refused .hostAccessWhileBusy
  else .next s

/-- R24, R27, R333: a write to register `n`. Only CTRL, CFG, CP and CUR take one; every other write is ignored. -/
def hostWriteReg (s : State) (n : Nat) (v : Word) : Host.Outcome State Fault Refusal :=
  if n = 0x00 then hostWriteCtrl s v
  else if s.isBusy then .refused .hostAccessWhileBusy
  else
    match n with
    | 0x02 => .next { s with cfg := CfgReg.ofWord v }
    | 0x03 => .next { s with cp := v }
    | 0x04 => .next (s.withCur v)
    | _ => .next s

/-- R333: a write of one byte of MEM. One byte an access is a DESIGN CHOICE (log entry 19), safe: R333 leaves the width of an access
open. An address at or above MEMSIZE does not exist (log entry 9). -/
def hostWriteMem (s : State) (a : Nat) (b : Byte) : Host.Outcome State Fault Refusal :=
  if s.isBusy then .refused .hostAccessWhileBusy
  else if a < s.config.memSize then .next (s.withMem (s.mem.write a [b]))
  else .fault (.noSuchAddress a)

/-! ### Reset in the middle of a command (R322) -/

/-- The check a command makes before it writes memory; commands that write no memory have none here. -/
def writeCheck (i : Instr) (s : State) : Option Raise :=
  match i with
  | .unpack d src spr rows dst => unpackCheck d src spr rows dst s
  | .pack d src spr rows dst => packCheck d src spr rows dst s
  | .unfilt bpp src rb rows dst => unfiltCheck bpp src rb rows dst s
  | .filt bpp kind src rb rows dst => filtCheck bpp kind src rb rows dst s
  | .deint depth channels il src width height dst => deintCheck depth channels il src width height dst s
  | .intl depth channels il src width height dst srclen => intlCheck depth channels il src width height dst srclen s
  | .swap16 src n dst => swap16Check src n dst s
  | .palx depth src width height dst srclen => palxCheck depth src width height dst srclen s
  | .compose dispose blend src fw fh out x y => composeCheck dispose blend src fw fh out x y s
  | .halt | .nop | .setcur _ | .crc _ _ | .crcchk _ _ | .palld _ _ | .paltr _ _ | .acfg _ _ _ _ _ _ => none

/-- The ranges of a command that can write memory (the "Ranges" of its rule). -/
def memRanges (i : Instr) (s : State) : List MemRange :=
  match i with
  | .unpack d src spr rows dst => unpackRanges d src spr rows dst
  | .pack d src spr rows dst => packRanges d src spr rows dst
  | .unfilt _ src rb rows dst => unfiltRanges src rb rows dst
  | .filt _ _ src rb rows dst => filtRanges src rb rows dst
  | .deint depth channels il src width height dst => deintRanges depth channels il src width height dst
  | .intl depth channels il src width height dst _ => intlRanges depth channels il src width height dst
  | .swap16 src n dst => swap16Ranges src n dst
  | .palx depth src width height dst _ => palxRanges depth src width height dst s
  | .compose _ blend src fw fh out x y => composeRanges blend src fw fh out x y s
  | .halt | .nop | .setcur _ | .crc _ _ | .crcchk _ _ | .palld _ _ | .paltr _ _ | .acfg _ _ _ _ _ _ => []

/-- R322: the bytes inside the written ranges of the abandoned command become unspecified; a command whose checks fail
writes nothing. -/
def abandonCommand (i : Instr) (s : State) : State :=
  match writeCheck i s with
  | some _ => s
  | none => ((memRanges i s).filter (·.written)).foldl (fun s r => s.scribble r.addr r.len) s

/-- R322: RST reaches a BUSY engine in the middle of the command at CP: the command is abandoned, then the registers reset. -/
def resetMidCommand (s : State) : State :=
  if s.isBusy && s.canFetch then
    match decode s.descriptorAtCp with
    | .ok i => (abandonCommand i s).resetRegs
    | .error _ => s.resetRegs
  else s.resetRegs

/-- R333: the effect of a move of the host. -/
def hostStep (a : HostAction) (s : State) : Host.Outcome State Fault Refusal :=
  match a with
  | .hardReset => .next s.resetRegs
  | .resetDuringCommand => .next (resetMidCommand s)
  | .writeReg n v => hostWriteReg s n v
  | .writeMem a b => hostWriteMem s a b

/-- R325: the launch convention: the reset state of an engine with parameters `config`, with a memory image, a CFG value, a
CUR value and a CP value supplied, and GO written. -/
def launch (config : Config.Params) (mem : Memory) (cfg cur cp : Word) : State :=
  hostGo { State.resetWith config with mem := mem, cfg := CfgReg.ofWord cfg, cur := cur, cp := cp }

end Sys2Proof.Machine
end

