-- ==== Sys2Proof/Safety.lean ====
section
/-!
DEFINITION. What holds of every state the engine can be in, and how a run ends.

`State.Inv` gathers the standing facts that the rules state about registers and memory; `Reachable` is every state that
resets, engine steps and host moves lead to (70_reset_and_hazards.md rules R320, R325, R333).
-/

namespace Sys2Proof.Machine

/-- R34: PALN is 0 to 256, PALC is 0, 3 or 4, and an unloaded palette has no entries. -/
structure Palette.Inv (p : Palette) : Prop where
  paln_le : p.paln.toNat ≤ 256
  palc_cases : p.palc = 0 ∨ p.palc = 3 ∨ p.palc = 4
  unloaded : p.palc = 0 → p.paln = 0

/-- R38, R242, R243, R250: an unconfigured compositor has composited nothing; a configured one has a legal pixel format and a
non-empty canvas; the recorded rectangle lies in the canvas and the recorded dispose tag is legal. -/
structure Compositor.Inv (c : Compositor) : Prop where
  unconfigured : c.aw = 0 → c.aframes = 0
  channels : c.aw ≠ 0 → 1 ≤ c.ach.toNat ∧ c.ach.toNat ≤ 4
  sampleBytes : c.aw ≠ 0 → c.ass = 1 ∨ c.ass = 2
  height : c.aw ≠ 0 → c.ah ≠ 0
  rectX : c.apx.toNat + c.apw.toNat ≤ c.aw.toNat
  rectY : c.apy.toNat + c.aph.toNat ≤ c.ah.toNat
  dispose_le : c.apdisp.toNat ≤ 2

/-- R33: all five fault registers are 0 while no fault has occurred; in ERR they hold one of the nineteen codes. -/
structure FaultRecordInv (s : State) : Prop where
  clear : s.status ≠ .err → s.err = .zero
  code : s.status = .err → 1 ≤ s.err.errcode.toNat ∧ s.err.errcode.toNat ≤ 19

/-- The standing facts of a state. -/
structure State.Inv (s : State) : Prop where
  /-- R8: 32 ≤ MEMSIZE ≤ 2^32. -/
  params : s.config.Legal
  /-- Memory is in its canonical form. -/
  memWf : s.mem.wf
  /-- R60: only addresses below MEMSIZE exist. -/
  memInside : ∀ c ∈ s.mem, c.1 < s.config.memSize
  palette : s.pal.Inv
  compositor : s.comp.Inv
  faults : FaultRecordInv s

/-- The states that an engine with parameters `config` reaches from power-on by engine steps and host moves. -/
inductive Reachable (config : Config.Params) : State → Prop where
  | reset : Reachable config (State.resetWith config)
  | step (s t : State) : Reachable config s → Machine.step s = .next t → Reachable config t
  | host (a : HostAction) (s t : State) : Reachable config s → hostStep a s = .next t → Reachable config t

/-- R307: the test that a run has ended, STATUS.DONE = 1 or STATUS.ERR = 1 (R307 calls it "program finished"). -/
def State.ended (s : State) : Prop := s.status = .done ∨ s.status = .err

/-- R333: "Program finished", in the narrower sense of the host's table, is STATUS.DONE = 1. -/
def State.finished (s : State) : Prop := s.status = .done

/-- R333: "program failed" is STATUS.ERR = 1. -/
def State.failed (s : State) : Prop := s.status = .err

end Sys2Proof.Machine
end

