-- ==== Sys2Proof/Certificates/Slice0/Obligations.lean ====
section
/-!
DEFINITION. The statements for the provers, from the numbered rules of spec/. Each `def Obligations.<Name> : Prop` says what it
states; the helpers it uses stand first, in `Sys2Proof.Claims`, written from the rules and not from the model's own checks.

Free values: no statement says which value an unspecified byte takes. Where a command draws one, the statement holds for every
value, and the counter `freeDraws` (the model's own field) is left open.
-/

namespace Sys2Proof.Claims

open Sys2Proof.Machine

/-! ### Ranges (R66, R67) -/

/-- R66: the range `(a, n)` is admitted. -/
abbrev Fits (s : State) (a : Word) (n : Nat) : Prop := n = 0 ∨ a.toNat + n ≤ s.config.memSize

/-- R67: the ranges `(a, n)` and `(b, m)` do not overlap. -/
abbrev Apart (a : Word) (n : Nat) (b : Word) (m : Nat) : Prop :=
  n = 0 ∨ m = 0 ∨ a.toNat + n ≤ b.toNat ∨ b.toNat + m ≤ a.toNat

/-- A source and a destination range pass both checks. -/
abbrev Ready (s : State) (src : Word) (n : Nat) (dst : Word) (m : Nat) : Prop :=
  Fits s src n ∧ Fits s dst m ∧ Apart src n dst m

/-- Every byte outside `(a, n)` reads in `m` as it does in `s`. -/
def SameOutside (s : State) (m : Memory) (a n : Nat) : Prop := ∀ b, b < a ∨ a + n ≤ b → m.byte b = s.mem.byte b

/-! ### Faults (R281, R300) -/

/-- A fault as its numbers: code and the three information words (R281). -/
structure Report where
  code : Nat
  info0 : Nat
  info1 : Nat
  info2 : Nat
  deriving DecidableEq, Repr

/-- R300: the state after fault entry. -/
def faulted (s : State) (r : Report) : State :=
  { s with
    err := { errcode := BitVec.ofNat 32 r.code, errcp := s.cp, errinfo0 := BitVec.ofNat 32 r.info0,
             errinfo1 := BitVec.ofNat 32 r.info1, errinfo2 := BitVec.ofNat 32 r.info2 }
    status := .err }

/-- The report of a check that fails when `bad`. -/
def failing (bad : Bool) (r : Report) : Option Report := if bad then some r else none

/-- R296: the first report of a list. -/
def firstOf (rs : List (Option Report)) : Option Report := rs.findSome? id

/-- R66, code 3: range number `k` is not admitted. -/
def accessReport (s : State) (a : Word) (n k : Nat) : Option Report :=
  failing (!decide (Fits s a n)) ⟨3, a.toNat, min n (2 ^ 32 - 1), k⟩

/-- R67, code 4: ranges number `i` and `j` overlap. -/
def overlapReport (a : Word) (n : Nat) (b : Word) (m i j : Nat) : Option Report :=
  failing (!decide (Apart a n b m)) ⟨4, a.toNat, b.toNat, i * 256 + j⟩

/-- R66, R67: the range checks of a command with one source and one destination. -/
def rangeReports (s : State) (src : Word) (n : Nat) (dst : Word) (m : Nat) : List (Option Report) :=
  [accessReport s src n 1, accessReport s dst m 2, overlapReport src n dst m 1 2]

/-- Code 6: the depth `d` is not one of `legal`. -/
def depthReport (d : Byte) (legal : List Nat) : Option Report := failing (!legal.contains d.toNat) ⟨6, d.toNat, 0, 0⟩

/-- Code 7: channels not 1 to 4. -/
def channelsReport (c : Byte) : Option Report := failing (!decide (1 ≤ c.toNat ∧ c.toNat ≤ 4)) ⟨7, c.toNat, 0, 0⟩

/-- Code 8 kind 2: width or height is 0. -/
def sizeReport (w h : Word) : Option Report := failing (decide (w.toNat = 0 ∨ h.toNat = 0)) ⟨8, w.toNat, h.toNat, 2⟩

/-! ### Lanes and predictors (R140, R161, R162) -/

/-- R140: lane `i` of a row, in the byte `b` that holds it: `(b >> (8 − d − ((i·d) mod 8))) & (2^d − 1)`. -/
def lane (b : Byte) (d i : Nat) : Nat := b.toNat / 2 ^ (8 - d - i * d % 8) % 2 ^ d

/-- R161: the byte `bpp` positions to the left in a line, 0 in the first `bpp` positions. -/
def left (line : Nat → Byte) (bpp i : Nat) : Nat := if bpp ≤ i then (line (i - bpp)).toNat else 0

/-- R162: the predictor of a tag; tag 4 is the Paeth predictor, of which R163 has a statement of its own. -/
def predictor (tag a b c : Nat) : Nat :=
  if tag = 0 then 0 else if tag = 1 then a else if tag = 2 then b else if tag = 3 then (a + b) / 2 else paeth a b c

/-- R161, R162: the predictor at position `i` of line `r`; above the first line everything is 0. -/
def predicted (tag : Nat) (L : Nat → Nat → Byte) (bpp r i : Nat) : Nat :=
  predictor tag (left (L r) bpp i) (if r = 0 then 0 else (L (r - 1) i).toNat) (if r = 0 then 0 else left (L (r - 1)) bpp i)

/-- R164, R166: the lines `L` are what the filtered bytes `f` with the tags `tag` reconstruct to. -/
def Reconstructs (tag : Nat → Byte) (f : Nat → Nat → Byte) (bpp rb rows : Nat) (L : Nat → Nat → Byte) : Prop :=
  ∀ r < rows, ∀ i < rb, (L r i).toNat = ((f r i).toNat + predicted (tag r).toNat L bpp r i) % 256

/-! ### Interlaced images (R191 to R195) -/

/-- R193: where pass number `k` of the non-empty passes begins in the stream. -/
def passStart (depth channels il w h k : Nat) : Nat :=
  (((livePasses il w h).take k).map (passBytes depth channels w h)).sum

/-- R193: the address of the tag of row `row` of pass `p`, whose stretch of the stream begins at `start`. -/
def rowAddr (depth channels w start row : Nat) (p : Pass) : Nat := start + row * (1 + passRowBytes depth channels (p.width w))

/-- R196 checks 1 to 4, R197 likewise. -/
abbrev LegalImage (depth channels il : Byte) (w h : Word) : Prop :=
  depth.toNat ∈ [1, 2, 4, 8, 16] ∧ (1 ≤ channels.toNat ∧ channels.toNat ≤ 4) ∧ il.toNat ≤ 1 ∧ 1 ≤ w.toNat ∧ 1 ≤ h.toNat

/-- R190's table: the seven passes in order, `(x-offset, y-offset, x-stride, y-stride)`. -/
def passTable : List (Nat × Nat × Nat × Nat) :=
  [(0, 0, 8, 8), (4, 0, 8, 8), (0, 4, 4, 8), (2, 0, 4, 4), (0, 2, 2, 4), (1, 0, 2, 2), (0, 1, 1, 2)]

/-- A pass as its row of the table. -/
def passRow (p : Pass) : Nat × Nat × Nat × Nat := (p.xo, p.yo, p.xs, p.ys)

/-- R190's tile: the number of the pass that pixel `(x, y)` belongs to, row `y mod 8`, column `x mod 8`. -/
def passNumber (x y : Nat) : Nat :=
  ([[1, 6, 4, 6, 2, 6, 4, 6], [7, 7, 7, 7, 7, 7, 7, 7], [5, 6, 5, 6, 5, 6, 5, 6], [7, 7, 7, 7, 7, 7, 7, 7],
    [3, 6, 4, 6, 3, 6, 4, 6], [7, 7, 7, 7, 7, 7, 7, 7], [5, 6, 5, 6, 5, 6, 5, 6], [7, 7, 7, 7, 7, 7, 7, 7]].getD (y % 8) []).getD
    (x % 8) 0

/-! ### Compositor (R240 to R250) -/

/-- R240: the offset of byte `j` of canvas pixel `(x, y)` in the canvas. -/
def canvasOffset (c : Compositor) (x y j : Nat) : Nat := (y * c.aw.toNat + x) * c.px + j

/-- R243, R254: byte `j` of canvas pixel `(x, y)` after the dispose step, from the memory before the command. -/
def baseByte (s : State) (x y j : Nat) : Byte :=
  let c := s.comp
  if c.aframes = 0 then 0
  else if c.apdisp = 1 then
    if (c.apx.toNat ≤ x ∧ x < c.apx.toNat + c.apw.toNat) ∧ (c.apy.toNat ≤ y ∧ y < c.apy.toNat + c.aph.toNat) then 0
    else s.mem.byte (c.acanvas.toNat + canvasOffset c x y j)
  else if c.apdisp = 2 then s.mem.byte (c.asnap.toNat + canvasOffset c x y j)
  else s.mem.byte (c.acanvas.toNat + canvasOffset c x y j)

/-- The pixel `(x, y)` lies in the effective rectangle. -/
abbrev InRect (e : FrameRect) (x y : Nat) : Prop := (e.ex ≤ x ∧ x < e.ex + e.ew) ∧ (e.ey ≤ y ∧ y < e.ey + e.eh)

/-- The address of byte `j` of the frame pixel that is drawn at canvas pixel `(x, y)`. -/
def frameAddr (c : Compositor) (e : FrameRect) (src x y j : Nat) : Nat := src + ((y - e.ey) * e.ew + (x - e.ex)) * c.px + j

/-- R245: sample `k` of a pixel whose bytes are `f 0`, `f 1`, ...: one byte, or two in native order. -/
def sampleOf (hle : Bool) (ss : Nat) (f : Nat → Byte) (k : Nat) : Nat :=
  if ss = 1 then (f k).toNat
  else if hle then (f (2 * k + 1)).toNat * 256 + (f (2 * k)).toNat
  else (f (2 * k)).toNat * 256 + (f (2 * k + 1)).toNat

/-- R250 checks 1 to 7 pass. -/
abbrev ComposeReady (s : State) (dispose blend : Byte) (src fw fh out x y : Word) : Prop :=
  let c := s.comp
  let e := effectiveRect c blend fw fh x y
  dispose.toNat ≤ 2 ∧ blend.toNat ≤ 1 ∧ c.aw ≠ 0 ∧
  (c.aframes ≠ 0 → 1 ≤ fw.toNat ∧ 1 ≤ fh.toNat ∧ x.toNat + fw.toNat ≤ c.aw.toNat ∧ y.toNat + fh.toNat ≤ c.ah.toNat) ∧
  (Fits s src (e.ew * e.eh * c.px) ∧ Fits s c.acanvas c.cb ∧ Fits s c.asnap c.cb ∧ Fits s out c.cb) ∧
  (Apart src (e.ew * e.eh * c.px) c.acanvas c.cb ∧ Apart src (e.ew * e.eh * c.px) c.asnap c.cb ∧
    Apart src (e.ew * e.eh * c.px) out c.cb) ∧
  (Apart c.acanvas c.cb c.asnap c.cb ∧ Apart c.acanvas c.cb out c.cb ∧ Apart c.asnap c.cb out c.cb)

/-- R250, R38: the compositor registers after the frame. -/
def recorded (c : Compositor) (dispose : Byte) (e : FrameRect) : Compositor :=
  { c with
    apx := BitVec.ofNat 32 e.ex, apy := BitVec.ofNat 32 e.ey, apw := BitVec.ofNat 32 e.ew, aph := BitVec.ofNat 32 e.eh,
    apdisp := BitVec.ofNat 32 dispose.toNat, aframes := if c.aframes.toNat = 2 ^ 32 - 1 then c.aframes else c.aframes + 1 }

/-- Every byte outside the canvas, the snapshot and the output buffer reads in `m` as it does in `s`. -/
def SameOutsideCanvas (s : State) (m : Memory) (out : Word) : Prop :=
  ∀ b, (b < s.comp.acanvas.toNat ∨ s.comp.acanvas.toNat + s.comp.cb ≤ b) →
    (b < s.comp.asnap.toNat ∨ s.comp.asnap.toNat + s.comp.cb ≤ b) → (b < out.toNat ∨ out.toNat + s.comp.cb ≤ b) →
    m.byte b = s.mem.byte b

/-! ### The register map (R24) -/

/-- R24, R26, R29: what each register number that is neither CTRL nor reserved reads as. -/
def registerMap (s : State) : List (Nat × Word) :=
  [(0x01, match s.status with | .idle => 0 | .busy => 1 | .done => 2 | .err => 4),
   (0x02, BitVec.ofNat 32 ((if s.cfg.crcen then 1 else 0) + (if s.cfg.hle then 2 else 0))),
   (0x03, s.cp), (0x04, s.cur), (0x05, s.crcr), (0x06, s.olen)] ++
  [(0x07, s.err.errcode), (0x08, s.err.errcp), (0x09, s.err.errinfo0), (0x0A, s.err.errinfo1), (0x0B, s.err.errinfo2),
   (0x0C, s.pal.paln), (0x0D, s.pal.palc)] ++
  [(0x10, s.comp.acanvas), (0x11, s.comp.asnap), (0x12, s.comp.aw), (0x13, s.comp.ah), (0x14, s.comp.ach), (0x15, s.comp.ass),
   (0x16, s.comp.aframes), (0x17, s.comp.apx), (0x18, s.comp.apy), (0x19, s.comp.apw), (0x1A, s.comp.aph), (0x1B, s.comp.apdisp)] ++
  [(0x20, s.x[0]), (0x21, s.x[1]), (0x22, s.x[2]), (0x23, s.x[3]), (0x24, s.x[4]), (0x25, s.x[5]), (0x26, s.x[6]), (0x27, s.x[7])]

/-! ### The opcode map (R94) and what a command may write -/

/-- R94's table: each opcode number with the fields and operands that are not marked 0. -/
def opcodeTable : List (Nat × List Slot) :=
  [(0x00, []), (0x01, []), (0x02, [.w1]), (0x10, [.w1, .w2]), (0x11, [.w1, .w2]),
   (0x20, [.f1, .w1, .w2, .w3, .w4]), (0x21, [.f1, .w1, .w2, .w3, .w4]), (0x30, [.f1, .w1, .w2, .w3, .w4]),
   (0x31, [.f1, .f2, .w1, .w2, .w3, .w4]), (0x40, [.f1, .f2, .f3, .w1, .w2, .w3, .w4]),
   (0x41, [.f1, .f2, .f3, .w1, .w2, .w3, .w4, .w5]), (0x42, [.w1, .w2, .w4]), (0x50, [.w1, .w2]), (0x51, [.w1, .w2]),
   (0x52, [.f1, .w1, .w2, .w3, .w4, .w5]), (0x60, [.f1, .f2, .w1, .w2, .w3, .w4]),
   (0x61, [.f1, .f2, .w1, .w2, .w3, .w4, .w5, .w6])]

/-- A byte of the descriptor at CP: `OP`, `F1`, `F2`, `F3` are bytes 0 to 3 (R91). -/
def headByte (s : State) (k : Nat) : Byte := s.mem.byte (s.cp.toNat + k)

/-- Word `k` of the descriptor at CP, big-endian (R63). -/
def headWord (s : State) (k : Nat) : Nat :=
  (headByte s (4 * k)).toNat * 2 ^ 24 + (headByte s (4 * k + 1)).toNat * 2 ^ 16 + (headByte s (4 * k + 2)).toNat * 2 ^ 8 +
    (headByte s (4 * k + 3)).toNat

/-- The content of a field of the descriptor at CP. -/
def slotContent (s : State) : Slot → Nat
  | .f1 => (headByte s 1).toNat
  | .f2 => (headByte s 2).toNat
  | .f3 => (headByte s 3).toNat
  | .w1 => headWord s 1
  | .w2 => headWord s 2
  | .w3 => headWord s 3
  | .w4 => headWord s 4
  | .w5 => headWord s 5
  | .w6 => headWord s 6
  | .w7 => headWord s 7

/-- R96: the ten fields in the order of the check, with `pos` of each. -/
def slotPositions : List (Slot × Nat) :=
  [(.f1, 1), (.f2, 2), (.f3, 3), (.w1, 0x11), (.w2, 0x12), (.w3, 0x13), (.w4, 0x14), (.w5, 0x15), (.w6, 0x16), (.w7, 0x17)]

/-- The state whose latches hold the descriptor at CP (R102 step 2): `x[k] = Wk`. -/
def latched (s : State) : State :=
  { s with x := #v[BitVec.ofNat 32 (headWord s 0), BitVec.ofNat 32 (headWord s 1), BitVec.ofNat 32 (headWord s 2),
      BitVec.ofNat 32 (headWord s 3), BitVec.ofNat 32 (headWord s 4), BitVec.ofNat 32 (headWord s 5),
      BitVec.ofNat 32 (headWord s 6), BitVec.ofNat 32 (headWord s 7)] }

/-- The written ranges of a command ("Ranges" of its rule). -/
def writtenRanges (s : State) : Instr → List (Nat × Nat)
  | .unpack _ _ spr rows dst => [(dst.toNat, rows.toNat * spr.toNat)]
  | .pack d _ spr rows dst => [(dst.toNat, rows.toNat * divCeil (spr.toNat * d.toNat) 8)]
  | .unfilt _ _ rb rows dst => [(dst.toNat, rows.toNat * rb.toNat)]
  | .filt _ _ _ rb rows dst => [(dst.toNat, rows.toNat * (rb.toNat + 1))]
  | .deint d c _ _ w h dst => [(dst.toNat, w.toNat * h.toNat * pixBytes d.toNat c.toNat)]
  | .intl d c il _ w h dst _ => [(dst.toNat, streamLen d.toNat c.toNat il.toNat w.toNat h.toNat)]
  | .swap16 _ n dst => [(dst.toNat, 2 * n.toNat)]
  | .palx _ _ w h dst _ => [(dst.toNat, w.toNat * h.toNat * s.pal.palc.toNat)]
  | .compose _ _ _ _ _ out _ _ =>
    [(s.comp.acanvas.toNat, s.comp.cb), (s.comp.asnap.toNat, s.comp.cb), (out.toNat, s.comp.cb)]
  | .halt | .nop | .setcur _ | .crc _ _ | .crcchk _ _ | .palld _ _ | .paltr _ _ | .acfg _ _ _ _ _ _ => []

/-- `b` lies in none of the ranges. -/
def Outside (rs : List (Nat × Nat)) (b : Nat) : Prop := ∀ r ∈ rs, b < r.1 ∨ r.1 + r.2 ≤ b

/-- R70: the three data-dependent faults that can follow writes: BAD_FILTER (10) in UNFILT and DEINT, PAL_INDEX (14) in PALX,
SAMPLE_RANGE (18) in PACK and INTL. -/
def dataDependent (code : Word) : Instr → Bool
  | .unfilt _ _ _ _ _ => code == 10
  | .deint _ _ _ _ _ _ _ => code == 10
  | .palx _ _ _ _ _ _ => code == 14
  | .pack _ _ _ _ _ => code == 18
  | .intl _ _ _ _ _ _ _ _ => code == 18
  | .halt | .nop | .setcur _ | .crc _ _ | .crcchk _ _ | .unpack _ _ _ _ _ | .filt _ _ _ _ _ _ | .swap16 _ _ _
  | .palld _ _ | .paltr _ _ | .acfg _ _ _ _ _ _ | .compose _ _ _ _ _ _ _ _ => false

end Sys2Proof.Claims

open Sys2Proof Sys2Proof.Machine Sys2Proof.Claims

/-! ## Encoding and decoding -/

/-- 95_test_vectors.md Part 3 (programs P1, P3, P4, P6, P7): descriptors written out byte by byte decode to the commands
written beside them. -/
def Obligations.SpecDescriptorsDecode : Prop :=
  decodeBytes [0x02,0,0,0, 0,0,0x01,0x15, 0,0,0,0, 0,0,0,0, 0,0,0,0, 0,0,0,0, 0,0,0,0, 0,0,0,0] = .ok (.setcur 0x115, []) ∧
  decodeBytes [0x11,0,0,0, 0,0,0,0x11, 0x49,0x48,0x44,0x52, 0,0,0,0, 0,0,0,0, 0,0,0,0, 0,0,0,0, 0,0,0,0] =
    .ok (.crcchk 17 0x49484452, []) ∧
  decodeBytes [0x31,1,4,0, 0,0,0x03,0, 0,0,0,2, 0,0,0,2, 0,0,0x04,0, 0,0,0,0, 0,0,0,0, 0,0,0,0] =
    .ok (.filt 1 4 0x300 2 2 0x400, []) ∧
  decodeBytes [0x41,0x10,1,1, 0,0,0x02,0, 0,0,0,2, 0,0,0,2, 0,0,0x03,0, 0,0,0,8, 0,0,0,0, 0,0,0,0] =
    .ok (.intl 16 1 1 0x200 2 2 0x300 8, []) ∧
  decodeBytes [0x52,8,0,0, 0,0,0x02,0, 0,0,0,3, 0,0,0,2, 0,0,0x03,0, 0,0,0,6, 0,0,0,0, 0,0,0,0] =
    .ok (.palx 8 0x200 3 2 0x300 6, []) ∧
  decodeBytes [0x61,1,1,0, 0,0,0x01,0x10, 0,0,0,2, 0,0,0,1, 0,0,0x04,0x50, 0,0,0,0, 0,0,0,1, 0,0,0,0] =
    .ok (.compose 1 1 0x110 2 1 0x450 0 1, [])

/-- R90, R91, R93, R94: decoding the 32 bytes of any command gives the command back, with every field and operand, and leaves
the bytes that follow. It holds of every command, well formed or not. -/
def Obligations.EncodeThenDecodeGivesEveryCommandBack : Prop :=
  ∀ (i : Instr) (rest : List Byte), decodeBytes (encodeBytes i ++ rest) = .ok (i, rest)

/-- R94, R96: a descriptor that decodes is the encoding of what it decodes to: no bit of it is ignored. -/
def Obligations.EveryDescriptorThatDecodesIsAnEncoding : Prop :=
  ∀ (x : Descriptor) (i : Instr), decode x = .ok i → encode i = x

/-! ## Fetch, decode, step (R102, R22, R95, R96) -/

/-- R102, R63: while BUSY with the descriptor at CP inside MEM, if its 32 bytes decode to `i` then the step is `exec i` on the
state whose latches hold the eight big-endian words; nothing else is added around it. -/
def Obligations.StepRunsTheDecodedCommand : Prop :=
  ∀ (s : State) (i : Instr), s.status = .busy → s.cp.toNat + 32 ≤ s.config.memSize →
    decodeBytes (s.mem.read s.cp.toNat 32) = .ok (i, []) → step s = exec i (latched s)

/-- R102 step 1, R66: a descriptor that does not lie inside MEM faults ACCESS(CP, 32, 0) and the latches keep their values. -/
def Obligations.FetchOutsideMemoryFaults : Prop :=
  ∀ s : State, s.status = .busy → s.config.memSize < s.cp.toNat + 32 →
    step s = .next (faulted s ⟨3, s.cp.toNat, 32, 0⟩)

/-- R95: fetching a descriptor whose OP is none of R94's seventeen raises ILLEGAL_OP(W0); the latches hold the descriptor. -/
def Obligations.IllegalOpcodeFaults : Prop :=
  ∀ s : State, s.status = .busy → s.cp.toNat + 32 ≤ s.config.memSize →
    (∀ row ∈ opcodeTable, row.1 ≠ (headByte s 0).toNat) →
    step s = .next (faulted (latched s) ⟨1, headWord s 0, 0, 0⟩)

/-- R96: a non-zero field or operand that R94 marks 0 raises ILLEGAL_FIELD(W0, pos), `pos` naming the first offender in the
order F1, F2, F3, W1, ..., W7; the opcode check comes before it and the command's own checks after it. The all-zero descriptor
is HALT. -/
def Obligations.FirstNonzeroReservedFieldFaults : Prop :=
  decode #v[0, 0, 0, 0, 0, 0, 0, 0] = .ok .halt ∧
  ∀ (s : State) (used : List Slot) (before after : List (Slot × Nat)) (sl : Slot) (pos : Nat),
    s.status = .busy → s.cp.toNat + 32 ≤ s.config.memSize →
    ((headByte s 0).toNat, used) ∈ opcodeTable → slotPositions = before ++ (sl, pos) :: after →
    (∀ q ∈ before, q.1 ∈ used ∨ slotContent s q.1 = 0) → sl ∉ used → slotContent s sl ≠ 0 →
    step s = .next (faulted (latched s) ⟨2, headWord s 0, pos, 0⟩)

/-- 93_implementation_defined.md: "every descriptor, in every state, has a defined outcome": a step always answers a next
state, and so does every command. -/
def Obligations.EveryStepAnswersANextState : Prop :=
  (∀ s : State, ∃ t, step s = .next t) ∧ ∀ (i : Instr) (s : State), ∃ t, exec i s = .next t

/-- R22, R102 step 7: after a command other than HALT that raised nothing, CP is advanced by 32 mod 2^32; HALT and a fault
leave CP unchanged, and a fault copies it to ERRCP. -/
def Obligations.CommandPointerRule : Prop :=
  ∀ (i : Instr) (s t : State), s.status = .busy → exec i s = .next t →
    (t.status = .busy → t.cp.toNat = (s.cp.toNat + 32) % 2 ^ 32) ∧ (t.status ≠ .busy → t.cp = s.cp) ∧
    (t.status = .err → t.err.errcp = s.cp)

/-- The descriptor that the model's placing function (log entry 7) puts at CP is the one the next step fetches: every word survives
the way through memory. -/
def Obligations.PlacedDescriptorIsFetched : Prop :=
  ∀ (s : State) (x : Descriptor), 32 ≤ s.config.memSize →
    (s.placeAtCp x).status = .busy ∧ (s.placeAtCp x).fetched.x = x ∧
    ∀ i, decode x = .ok i → step (s.placeAtCp x) = exec i (s.placeAtCp x).fetched

/-! ## Control commands (R270 to R272) -/

/-- R270, R271, R272: HALT sets STATUS to DONE and leaves CP; NOP advances CP and does nothing else; SETCUR writes CUR with any
value and advances CP. -/
def Obligations.ControlCommandsDoExactlyThis : Prop :=
  ∀ (s : State) (addr : Word),
    exec .halt s = .next { s with status := .done } ∧ exec .nop s = .next { s with cp := s.cp + 32 } ∧
    exec (.setcur addr) s = .next { s with cur := addr, cp := s.cp + 32 }

/-! ## Checksum unit (R120 to R125) -/

/-- R122: the table-driven form of a CRC step gives the same value as the bit-serial one. -/
def Obligations.TableDrivenCrcStepAgrees : Prop := ∀ (c : Word) (b : Byte), crcStepTable c b = crcStep c b

/-- R123: CRC of an admitted range completes: CRCR is the checksum of its bytes, CP advances and nothing else changes; a range
that is not admitted raises ACCESS(src, len, 1); its encoding is OP = 0x10, W1 = src, W2 = len, the rest 0. -/
def Obligations.CrcCommandFollowsItsRule : Prop :=
  ∀ (s : State) (src len : Word),
    encode (.crc src len) = #v[0x10000000, src, len, 0, 0, 0, 0, 0] ∧
    (Fits s src len.toNat →
      exec (.crc src len) s =
        .next { s with crcr := crc32 ((List.range len.toNat).map fun i => s.mem.byte (src.toNat + i)), cp := s.cp + 32 }) ∧
    (¬Fits s src len.toNat → exec (.crc src len) s = .next (faulted s ⟨3, src.toNat, len.toNat, 1⟩))

/-- R124, case by case: CRCCHK with CFG.CRCEN = 0 consumes four bytes unread; with CFG.CRCEN = 1 it compares the big-endian
word at CUR with the checksum of the `crclen` bytes before it, writes CRCR first, and raises CRC_MISMATCH(stored, computed,
name) when they differ; CUR moves only on success. Its encoding is OP = 0x11, W1 = crclen, W2 = name, the rest 0. The clause for
`0 < crclen` and CUR above MEMSIZE is the model's reading (log entry 18): it follows R124's Ranges list with R66, where R124's
pseudocode alone would give other information words. -/
def Obligations.CrcchkFollowsItsRule : Prop :=
  ∀ (s : State) (crclen name : Word),
    let stored := be32 (s.mem.byte s.cur.toNat) (s.mem.byte (s.cur.toNat + 1)) (s.mem.byte (s.cur.toNat + 2))
      (s.mem.byte (s.cur.toNat + 3))
    let computed := crc32 ((List.range crclen.toNat).map fun i => s.mem.byte (s.cur.toNat - crclen.toNat + i))
    encode (.crcchk crclen name) = #v[0x11000000, crclen, name, 0, 0, 0, 0, 0] ∧
    (s.cfg.crcen = false →
      (s.cur.toNat + 4 ≤ s.config.memSize →
        exec (.crcchk crclen name) s = .next { s with cur := s.cur + 4, cp := s.cp + 32 }) ∧
      (s.config.memSize < s.cur.toNat + 4 → exec (.crcchk crclen name) s = .next (faulted s ⟨3, s.cur.toNat, 4, 1⟩))) ∧
    (s.cfg.crcen = true →
      (s.cur.toNat < crclen.toNat →
        exec (.crcchk crclen name) s = .next (faulted s ⟨3, s.cur.toNat, crclen.toNat, 1⟩)) ∧
      (crclen.toNat ≤ s.cur.toNat → crclen.toNat = 0 ∨ s.cur.toNat ≤ s.config.memSize → s.config.memSize < s.cur.toNat + 4 →
        exec (.crcchk crclen name) s = .next (faulted s ⟨3, s.cur.toNat, 4, 2⟩)) ∧
      (0 < crclen.toNat → crclen.toNat ≤ s.cur.toNat → s.config.memSize < s.cur.toNat →
        exec (.crcchk crclen name) s = .next (faulted s ⟨3, s.cur.toNat - crclen.toNat, crclen.toNat, 1⟩)) ∧
      (crclen.toNat ≤ s.cur.toNat → s.cur.toNat + 4 ≤ s.config.memSize → stored = computed →
        exec (.crcchk crclen name) s = .next { s with crcr := computed, cur := s.cur + 4, cp := s.cp + 32 }) ∧
      (crclen.toNat ≤ s.cur.toNat → s.cur.toNat + 4 ≤ s.config.memSize → stored ≠ computed →
        exec (.crcchk crclen name) s =
          .next (faulted { s with crcr := computed } ⟨5, stored.toNat, computed.toNat, name.toNat⟩)))

/-- R125 (b): two sequences of equal length that differ in exactly one byte have different checksums; so, with CFG.CRCEN = 1,
changing any one covered byte of a chunk whose checksum verifies makes CRCCHK raise CRC_MISMATCH (code 5). With CFG.CRCEN = 0
nothing is detected. -/
def Obligations.ChangingOneByteIsDetected : Prop :=
  (∀ (before after : List Byte) (b b' : Byte), b ≠ b' →
    crc32 (before ++ b :: after) ≠ crc32 (before ++ b' :: after)) ∧
  (∀ (s t u : State) (crclen name : Word) (i : Nat) (b : Byte), s.cfg.crcen = true → s.status ≠ .err →
    exec (.crcchk crclen name) s = .next t → t.status ≠ .err → i < crclen.toNat →
    b ≠ s.mem.byte (s.cur.toNat - crclen.toNat + i) →
    exec (.crcchk crclen name) { s with mem := s.mem.write (s.cur.toNat - crclen.toNat + i) [b] } = .next u →
    u.status = .err ∧ u.err.errcode = 5) ∧
  (∀ (s : State) (m : Memory) (crclen name : Word), s.cfg.crcen = false → s.cur.toNat + 4 ≤ s.config.memSize →
    exec (.crcchk crclen name) { s with mem := m } = .next { s with mem := m, cur := s.cur + 4, cp := s.cp + 32 })

/-! ## Bit-depth unit (R140 to R144) -/

/-- R140, R142: UNPACK completes, with slot `i` of row `r` holding lane `i` of that packed row, OLEN = rows · spr, CP
advanced, every other register and every byte outside the destination unchanged. -/
def Obligations.UnpackWritesEveryLane : Prop :=
  ∀ (s : State) (d : Byte) (src spr rows dst : Word),
    let rb := divCeil (spr.toNat * d.toNat) 8
    d.toNat ∈ [1, 2, 4] → Ready s src (rows.toNat * rb) dst (rows.toNat * spr.toNat) →
    ∃ m : Memory,
      exec (.unpack d src spr rows dst) s =
        .next { s with mem := m, olen := BitVec.ofNat 32 (rows.toNat * spr.toNat), cp := s.cp + 32 } ∧
      (∀ r < rows.toNat, ∀ i < spr.toNat,
        (m.byte (dst.toNat + r * spr.toNat + i)).toNat =
          lane (s.mem.byte (src.toNat + r * rb + i * d.toNat / 8)) d.toNat i) ∧
      SameOutside s m dst.toNat (rows.toNat * spr.toNat)

/-- R141, R143: PACK of samples that all fit completes, with sample `i` of row `r` in lane `i` of that packed row and the
unused lanes zero, OLEN = rows · rb, CP advanced, every other register and every byte outside the destination unchanged. -/
def Obligations.PackFillsEveryLane : Prop :=
  ∀ (s : State) (d : Byte) (src spr rows dst : Word),
    let rb := divCeil (spr.toNat * d.toNat) 8
    d.toNat ∈ [1, 2, 4] → Ready s src (rows.toNat * spr.toNat) dst (rows.toNat * rb) →
    (∀ j < rows.toNat * spr.toNat, (s.mem.byte (src.toNat + j)).toNat < 2 ^ d.toNat) →
    ∃ m : Memory,
      exec (.pack d src spr rows dst) s =
        .next { s with mem := m, olen := BitVec.ofNat 32 (rows.toNat * rb), cp := s.cp + 32 } ∧
      (∀ r < rows.toNat, ∀ i < spr.toNat,
        lane (m.byte (dst.toNat + r * rb + i * d.toNat / 8)) d.toNat i =
          (s.mem.byte (src.toNat + r * spr.toNat + i)).toNat) ∧
      (∀ r < rows.toNat, ∀ i, spr.toNat ≤ i → i * d.toNat / 8 < rb →
        lane (m.byte (dst.toNat + r * rb + i * d.toNat / 8)) d.toNat i = 0) ∧
      SameOutside s m dst.toNat (rows.toNat * rb)

/-- R143, R70: PACK raises SAMPLE_RANGE(sample, index mod 2^32, depth) at the first sample in row-major order that does not
fit; nothing else but the destination bytes changes. -/
def Obligations.PackRefusesTheFirstWideSample : Prop :=
  ∀ (s : State) (d : Byte) (src spr rows dst : Word) (j : Nat),
    let rb := divCeil (spr.toNat * d.toNat) 8
    d.toNat ∈ [1, 2, 4] → Ready s src (rows.toNat * spr.toNat) dst (rows.toNat * rb) → j < rows.toNat * spr.toNat →
    (∀ k < j, (s.mem.byte (src.toNat + k)).toNat < 2 ^ d.toNat) → 2 ^ d.toNat ≤ (s.mem.byte (src.toNat + j)).toNat →
    ∃ (m : Memory) (k : Nat),
      exec (.pack d src spr rows dst) s =
        .next { faulted s ⟨18, (s.mem.byte (src.toNat + j)).toNat, j % 2 ^ 32, d.toNat⟩ with mem := m, freeDraws := k } ∧
      SameOutside s m dst.toNat (rows.toNat * rb)

/-- R144 (a) and (b): unpacking what was packed gives the samples back, and packing what was unpacked gives the packed row
back with its unused lanes cleared, which is the row itself when they were zero. -/
def Obligations.PackAndUnpackAreInverse : Prop :=
  ∀ d ∈ [1, 2, 4],
    (∀ s : List Byte, (∀ v ∈ s, v.toNat < 2 ^ d) → unpackRow (packRow s d s.length) d s.length = s) ∧
    (∀ (p : List Byte) (n : Nat), p.length = divCeil (n * d) 8 →
      (packRow (unpackRow p d n) d n).length = p.length ∧
      (∀ i < n, lane ((packRow (unpackRow p d n) d n).getD (i * d / 8) 0) d i = lane (p.getD (i * d / 8) 0) d i) ∧
      (∀ i, n ≤ i → i * d / 8 < p.length → lane ((packRow (unpackRow p d n) d n).getD (i * d / 8) 0) d i = 0) ∧
      ((∀ i, n ≤ i → i * d / 8 < p.length → lane (p.getD (i * d / 8) 0) d i = 0) →
        packRow (unpackRow p d n) d n = p))

/-! ## Scanline filter unit (R160 to R176) -/

/-- R163: the Paeth predictor is the neighbour nearest to `p = a + b − c`; ties go to `a` first, then `b`, then `c`. -/
def Obligations.PaethPicksTheNearestNeighbour : Prop :=
  ∀ a b c : Nat,
    let p : Int := (a : Int) + b - c
    let dist := fun v : Nat => |p - v|
    let r := paeth a b c
    (r = a ∨ r = b ∨ r = c) ∧ (dist r ≤ dist a ∧ dist r ≤ dist b ∧ dist r ≤ dist c) ∧
    (dist a = dist r → r = a) ∧ (dist a ≠ dist r → dist b = dist r → r = b)

/-- R164, R166, R170: UNFILT of a stream whose tags are all legal completes; the lines it writes reconstruct the filtered bytes
byte by byte, from the left, above and upper-left bytes of the output itself; OLEN = rows · rb, CP advanced, every other
register and every byte outside the destination unchanged. -/
def Obligations.UnfiltReconstructsEveryByte : Prop :=
  ∀ (s : State) (bpp : Byte) (src rb rows dst : Word),
    1 ≤ bpp.toNat ∧ bpp.toNat ≤ 8 → Ready s src (rows.toNat * (rb.toNat + 1)) dst (rows.toNat * rb.toNat) →
    (∀ r < rows.toNat, (s.mem.byte (src.toNat + r * (rb.toNat + 1))).toNat ≤ 4) →
    ∃ m : Memory,
      exec (.unfilt bpp src rb rows dst) s =
        .next { s with mem := m, olen := BitVec.ofNat 32 (rows.toNat * rb.toNat), cp := s.cp + 32 } ∧
      Reconstructs (fun r => s.mem.byte (src.toNat + r * (rb.toNat + 1)))
        (fun r i => s.mem.byte (src.toNat + r * (rb.toNat + 1) + 1 + i)) bpp.toNat rb.toNat rows.toNat
        (fun r i => m.byte (dst.toNat + r * rb.toNat + i)) ∧
      SameOutside s m dst.toNat (rows.toNat * rb.toNat)

/-- R166, R170, R70: UNFILT raises BAD_FILTER(tag, row mod 2^32) at the first row whose tag is above 4 (with `rb = 0` too);
nothing else but the destination bytes changes. -/
def Obligations.UnfiltRefusesTheFirstBadTag : Prop :=
  ∀ (s : State) (bpp : Byte) (src rb rows dst : Word) (row : Nat),
    1 ≤ bpp.toNat ∧ bpp.toNat ≤ 8 → Ready s src (rows.toNat * (rb.toNat + 1)) dst (rows.toNat * rb.toNat) →
    row < rows.toNat → (∀ r < row, (s.mem.byte (src.toNat + r * (rb.toNat + 1))).toNat ≤ 4) →
    4 < (s.mem.byte (src.toNat + row * (rb.toNat + 1))).toNat →
    ∃ (m : Memory) (k : Nat),
      exec (.unfilt bpp src rb rows dst) s =
        .next { faulted s ⟨10, (s.mem.byte (src.toNat + row * (rb.toNat + 1))).toNat, row % 2 ^ 32, 0⟩ with
          mem := m, freeDraws := k } ∧
      SameOutside s m dst.toNat (rows.toNat * rb.toNat)

/-- R165, R167, R175: FILT completes; every row of the stream is the kind's tag and then, for each byte, the original byte
minus the predictor of its original neighbours, mod 256; OLEN = rows · (rb + 1), CP advanced, every other register and every
byte outside the destination unchanged. -/
def Obligations.FiltSubtractsThePredictor : Prop :=
  ∀ (s : State) (bpp kind : Byte) (src rb rows dst : Word),
    1 ≤ bpp.toNat ∧ bpp.toNat ≤ 8 → kind.toNat ≤ 4 →
    Ready s src (rows.toNat * rb.toNat) dst (rows.toNat * (rb.toNat + 1)) →
    ∃ m : Memory,
      exec (.filt bpp kind src rb rows dst) s =
        .next { s with mem := m, olen := BitVec.ofNat 32 (rows.toNat * (rb.toNat + 1)), cp := s.cp + 32 } ∧
      (∀ r < rows.toNat, m.byte (dst.toNat + r * (rb.toNat + 1)) = kind ∧
        ∀ i < rb.toNat,
          m.byte (dst.toNat + r * (rb.toNat + 1) + 1 + i) =
            s.mem.byte (src.toNat + r * rb.toNat + i) -
              BitVec.ofNat 8 (predicted kind.toNat (fun r i => s.mem.byte (src.toNat + r * rb.toNat + i)) bpp.toNat r i)) ∧
      SameOutside s m dst.toNat (rows.toNat * (rb.toNat + 1))

/-- R176: unfiltering what was filtered gives the line back, for every kind, every `bpp ≥ 1`, every line and every previous
line of the same length; consequently the same holds of whole passes. -/
def Obligations.UnfilterInvertsFilter : Prop :=
  (∀ (k : FilterKind) (bpp : Nat) (o prev : List Byte), 1 ≤ bpp → prev.length = o.length →
    unfilterLine k (filterLine k o prev bpp) prev bpp = o) ∧
  (∀ (k : FilterKind) (bpp rb : Nat) (lines : List (List Byte)), 1 ≤ bpp → (∀ l ∈ lines, l.length = rb) →
    unfilterPass (filterPass k lines rb bpp) rb lines.length bpp = .ok lines)

/-! ## Interlace unit (R190 to R200) -/

/-- R190, R191: interlace method 0 has the single pass (0, 0, 1, 1) and method 1 the seven rows of the table in the order 1 to 7; the
passes processed are the non-empty ones, in that order; every pixel of an image belongs to exactly one of the seven passes, as one
row and column of it, and to pass number `k` exactly where the tile of `(x mod 8, y mod 8)` says so. -/
def Obligations.EveryPixelBelongsToExactlyOnePass : Prop :=
  ((passesOf 0).map passRow = [(0, 0, 1, 1)] ∧ (passesOf 1).map passRow = passTable ∧ sevenPasses.map passRow = passTable) ∧
  (∀ il w h : Nat, (livePasses il w h).Sublist (passesOf il) ∧
    ∀ p ∈ passesOf il, p ∈ livePasses il w h ↔ 0 < p.width w ∧ 0 < p.height h) ∧
  (∀ x y k : Nat, (hk : k < sevenPasses.length) →
    ((∃ row col, x = sevenPasses[k].xo + col * sevenPasses[k].xs ∧ y = sevenPasses[k].yo + row * sevenPasses[k].ys) ↔
      passNumber x y = k + 1)) ∧
  ∀ w h x y : Nat, x < w → y < h →
    ∃! q : Pass × Nat × Nat, q.1 ∈ sevenPasses ∧ q.2.1 < q.1.height h ∧ q.2.2 < q.1.width w ∧
      x = q.1.xo + q.2.2 * q.1.xs ∧ y = q.1.yo + q.2.1 * q.1.ys

/-- R193 to R196: DEINT of a stream whose tags are all legal completes: for every non-empty pass there are lines that
reconstruct its stretch of the stream, and every pixel of the pass stands in the raster at its place, byte for byte for depth 8
and 16 and one lane a byte below; OLEN = W · H · pix, CP advanced, every other register and every byte outside the destination
unchanged. -/
def Obligations.DeintReassemblesEveryPass : Prop :=
  ∀ (s : State) (depth channels il : Byte) (src w h dst : Word),
    let d := depth.toNat
    let c := channels.toNat
    let W := w.toNat
    let live := livePasses il.toNat W h.toNat
    let start := fun k => src.toNat + passStart d c il.toNat W h.toNat k
    LegalImage depth channels il w h →
    Ready s src (streamLen d c il.toNat W h.toNat) dst (W * h.toNat * pixBytes d c) →
    (∀ k, (hk : k < live.length) → ∀ row < live[k].height h.toNat,
      (s.mem.byte (rowAddr d c W (start k) row live[k])).toNat ≤ 4) →
    ∃ m : Memory,
      exec (.deint depth channels il src w h dst) s =
        .next { s with mem := m, olen := BitVec.ofNat 32 (W * h.toNat * pixBytes d c), cp := s.cp + 32 } ∧
      (∀ k, (hk : k < live.length) →
        let p := live[k]
        ∃ L : Nat → Nat → Byte,
          Reconstructs (fun r => s.mem.byte (rowAddr d c W (start k) r p))
            (fun r i => s.mem.byte (rowAddr d c W (start k) r p + 1 + i)) (bppOf d c) (passRowBytes d c (p.width W))
            (p.height h.toNat) L ∧
          ∀ row < p.height h.toNat, ∀ col < p.width W, ∀ j < pixBytes d c,
            (m.byte (dst.toNat + pixelOffset p W (pixBytes d c) row col + j)).toNat =
              if d < 8 then lane (L row ((col * c + j) * d / 8)) d (col * c + j)
              else (L row (col * pixBytes d c + j)).toNat) ∧
      SameOutside s m dst.toNat (W * h.toNat * pixBytes d c)

/-- R166, R195, R196, R70: DEINT raises BAD_FILTER(tag, row of its pass) at the first row, in stream order, whose tag is above
4; nothing else but the destination bytes changes. -/
def Obligations.DeintRefusesTheFirstBadTag : Prop :=
  ∀ (s : State) (depth channels il : Byte) (src w h dst : Word) (k row : Nat),
    let d := depth.toNat
    let c := channels.toNat
    let W := w.toNat
    let live := livePasses il.toNat W h.toNat
    let tag := fun (k row : Nat) (p : Pass) =>
      (s.mem.byte (rowAddr d c W (src.toNat + passStart d c il.toNat W h.toNat k) row p)).toNat
    LegalImage depth channels il w h →
    Ready s src (streamLen d c il.toNat W h.toNat) dst (W * h.toNat * pixBytes d c) →
    (hk : k < live.length) → row < live[k].height h.toNat →
    (∀ k', (hk' : k' < live.length) → ∀ row' < live[k'].height h.toNat, k' < k ∨ (k' = k ∧ row' < row) →
      tag k' row' live[k'] ≤ 4) →
    4 < tag k row live[k] →
    ∃ (m : Memory) (n : Nat),
      exec (.deint depth channels il src w h dst) s =
        .next { faulted s ⟨10, tag k row live[k], row % 2 ^ 32, 0⟩ with mem := m, freeDraws := n } ∧
      SameOutside s m dst.toNat (W * h.toNat * pixBytes d c)

/-- R195, R197: INTL of a raster whose samples fit completes: every row of every non-empty pass stands in the stream as tag 0
and then its pixels, byte for byte for depth 8 and 16, packed with zero padding below; OLEN = stream_len, CP advanced, every
other register and every byte outside the destination unchanged. -/
def Obligations.IntlDecomposesEveryPass : Prop :=
  ∀ (s : State) (depth channels il : Byte) (src w h dst srclen : Word),
    let d := depth.toNat
    let c := channels.toNat
    let W := w.toNat
    let live := livePasses il.toNat W h.toNat
    let len := streamLen d c il.toNat W h.toNat
    let start := fun k => dst.toNat + passStart d c il.toNat W h.toNat k
    LegalImage depth channels il w h → srclen.toNat = W * h.toNat * pixBytes d c →
    Ready s src (W * h.toNat * pixBytes d c) dst len →
    (d < 8 → ∀ j < W * h.toNat * pixBytes d c, (s.mem.byte (src.toNat + j)).toNat < 2 ^ d) →
    ∃ m : Memory,
      exec (.intl depth channels il src w h dst srclen) s =
        .next { s with mem := m, olen := BitVec.ofNat 32 len, cp := s.cp + 32 } ∧
      (∀ k, (hk : k < live.length) →
        let p := live[k]
        ∀ row < p.height h.toNat,
          let a := rowAddr d c W (start k) row p
          m.byte a = 0 ∧
          (∀ col < p.width W, ∀ j < pixBytes d c,
            let v := s.mem.byte (src.toNat + pixelOffset p W (pixBytes d c) row col + j)
            if d < 8 then lane (m.byte (a + 1 + (col * c + j) * d / 8)) d (col * c + j) = v.toNat
            else m.byte (a + 1 + col * pixBytes d c + j) = v) ∧
          (d < 8 → ∀ i, p.width W * c ≤ i → i * d / 8 < passRowBytes d c (p.width W) →
            lane (m.byte (a + 1 + i * d / 8)) d i = 0)) ∧
      SameOutside s m dst.toNat len

/-- R195, R197, R70: INTL at depth below 8 raises SAMPLE_RANGE(sample, raster offset mod 2^32, depth) at the first sample, in
stream order (pass, row, column, sample), that does not fit; nothing else but the destination bytes changes. -/
def Obligations.IntlRefusesTheFirstWideSample : Prop :=
  ∀ (s : State) (depth channels il : Byte) (src w h dst srclen : Word) (k row col j : Nat),
    let d := depth.toNat
    let W := w.toNat
    let pix := pixBytes d channels.toNat
    let len := streamLen d channels.toNat il.toNat W h.toNat
    let live := livePasses il.toNat W h.toNat
    let offset := fun (p : Pass) (row col j : Nat) => pixelOffset p W pix row col + j
    let sample := fun (p : Pass) (row col j : Nat) => (s.mem.byte (src.toNat + offset p row col j)).toNat
    LegalImage depth channels il w h → srclen.toNat = W * h.toNat * pix → Ready s src (W * h.toNat * pix) dst len → d < 8 →
    (hk : k < live.length) → row < live[k].height h.toNat → col < live[k].width W → j < pix →
    (∀ k', (hk' : k' < live.length) → ∀ row' < live[k'].height h.toNat, ∀ col' < live[k'].width W, ∀ j' < pix,
      (k' < k ∨ (k' = k ∧ (row' < row ∨ (row' = row ∧ (col' < col ∨ (col' = col ∧ j' < j)))))) →
      sample live[k'] row' col' j' < 2 ^ d) →
    2 ^ d ≤ sample live[k] row col j →
    ∃ (m : Memory) (n : Nat),
      exec (.intl depth channels il src w h dst srclen) s =
        .next { faulted s ⟨18, sample live[k] row col j, offset live[k] row col j % 2 ^ 32, d⟩ with mem := m, freeDraws := n } ∧
      SameOutside s m dst.toNat len

/-- R200 (a): decomposing any raster of the right length whose samples fit, and reassembling the stream, gives the raster
back, for both interlace methods; so (b) both methods give the same image. -/
def Obligations.ReassembleInvertsDecompose : Prop :=
  ∀ (depth channels il w h : Nat) (raster : List Byte),
    depth ∈ [1, 2, 4, 8, 16] → 1 ≤ channels ∧ channels ≤ 4 → il ≤ 1 → 1 ≤ w → 1 ≤ h →
    raster.length = w * h * pixBytes depth channels → (depth < 8 → ∀ v ∈ raster, v.toNat < 2 ^ depth) →
    ∃ stream : List Byte, decompose depth channels il raster w h = .ok stream ∧
      stream.length = streamLen depth channels il w h ∧ reassemble depth channels il stream w h = .ok raster

/-- R196: "With `il = 0`, depth 8 or 16, `DEINT` equals `UNFILT.bpp src, W·bpp, H, dst`": the two commands answer the same
state, faults included. -/
def Obligations.PlainDeintEqualsUnfilt : Prop :=
  ∀ (s : State) (depth channels : Byte) (src w h dst : Word),
    let bpp := bppOf depth.toNat channels.toNat
    depth.toNat ∈ [8, 16] → 1 ≤ channels.toNat ∧ channels.toNat ≤ 4 → 1 ≤ w.toNat → 1 ≤ h.toNat → w.toNat * bpp < 2 ^ 32 →
    exec (.deint depth channels 0 src w h dst) s =
      exec (.unfilt (BitVec.ofNat 8 bpp) src (BitVec.ofNat 32 (w.toNat * bpp)) h dst) s

/-- R199: SWAP16 completes; with CFG.HLE = 1 the two bytes of every sample change places, with CFG.HLE = 0 they are copied;
OLEN = 2n, CP advanced, every other register and every byte outside the destination unchanged. -/
def Obligations.Swap16SwapsOrCopies : Prop :=
  ∀ (s : State) (src n dst : Word), Ready s src (2 * n.toNat) dst (2 * n.toNat) →
    ∃ m : Memory,
      exec (.swap16 src n dst) s =
        .next { s with mem := m, olen := BitVec.ofNat 32 (2 * n.toNat), cp := s.cp + 32 } ∧
      (∀ i < n.toNat,
        m.byte (dst.toNat + 2 * i) = s.mem.byte (src.toNat + 2 * i + if s.cfg.hle then 1 else 0) ∧
        m.byte (dst.toNat + 2 * i + 1) = s.mem.byte (src.toNat + 2 * i + if s.cfg.hle then 0 else 1)) ∧
      SameOutside s m dst.toNat (2 * n.toNat)

/-! ## Palette unit (R220 to R225) -/

/-- R221: PALLD completes; the first bytelen / 3 entries are the RGB triples of the body, fully opaque, PALN counts them and
PALC = 3; CP advances and every other register and every byte of memory is unchanged. -/
def Obligations.PalldLoadsEveryTriple : Prop :=
  ∀ (s : State) (src bytelen : Word), bytelen.toNat % 3 = 0 → bytelen.toNat / 3 ≤ 256 → Fits s src bytelen.toNat →
    ∃ (lut : Vector LutEntry 256) (k : Nat),
      exec (.palld src bytelen) s =
        .next { s with pal := { paln := BitVec.ofNat 32 (bytelen.toNat / 3), palc := 3, lut := lut }, cp := s.cp + 32,
                       freeDraws := k } ∧
      ∀ i, (hi : i < 256) → i < bytelen.toNat / 3 →
        lut[i] = { r := s.mem.byte (src.toNat + 3 * i), g := s.mem.byte (src.toNat + 3 * i + 1),
                   b := s.mem.byte (src.toNat + 3 * i + 2), a := 255 }

/-- R223: PALTR completes; the first `m` entries take their alpha from memory, the other valid ones become opaque, their
colours stay, PALC = 4; entries at or above PALN, PALN, every other register and memory are unchanged, and CP advances. -/
def Obligations.PaltrGivesEveryEntryItsAlpha : Prop :=
  ∀ (s : State) (src m : Word), m.toNat ≤ s.pal.paln.toNat → Fits s src m.toNat →
    ∃ lut : Vector LutEntry 256,
      exec (.paltr src m) s = .next { s with pal := { paln := s.pal.paln, palc := 4, lut := lut }, cp := s.cp + 32 } ∧
      ∀ i, (hi : i < 256) →
        lut[i] =
          if i < m.toNat then { s.pal.lut[i] with a := s.mem.byte (src.toNat + i) }
          else if i < s.pal.paln.toNat then { s.pal.lut[i] with a := 255 } else s.pal.lut[i]

/-- R224, R225: PALX of indices that are all in the palette completes; pixel `(x, y)` of the output is the first PALC bytes of
the entry its index names (a lane of the packed row below depth 8); OLEN = W · H · PALC, CP advanced, every other register and
every byte outside the destination unchanged. -/
def Obligations.PalxExpandsEveryPixel : Prop :=
  ∀ (s : State) (depth : Byte) (src w h dst srclen : Word),
    let d := depth.toNat
    let rbw := divCeil (w.toNat * d) 8
    let palc := s.pal.palc.toNat
    let index := fun x y => lane (s.mem.byte (src.toNat + y * rbw + x * d / 8)) d x
    s.pal.Inv → d ∈ [1, 2, 4, 8] → 1 ≤ w.toNat ∧ 1 ≤ h.toNat → 1 ≤ s.pal.paln.toNat →
    srclen.toNat = h.toNat * rbw → Ready s src (h.toNat * rbw) dst (w.toNat * h.toNat * palc) →
    (∀ y < h.toNat, ∀ x < w.toNat, index x y < s.pal.paln.toNat) →
    ∃ m : Memory,
      exec (.palx depth src w h dst srclen) s =
        .next { s with mem := m, olen := BitVec.ofNat 32 (w.toNat * h.toNat * palc), cp := s.cp + 32 } ∧
      (∀ y < h.toNat, ∀ x < w.toNat, ∀ j < palc, ∀ e, s.pal.lut.toList[index x y]? = some e →
        m.byte (dst.toNat + (y * w.toNat + x) * palc + j) =
          if j = 0 then e.r else if j = 1 then e.g else if j = 2 then e.b else e.a) ∧
      SameOutside s m dst.toNat (w.toNat * h.toNat * palc)

/-- R224, R225, R70: PALX raises PAL_INDEX(index, PALN, pixel mod 2^32) at the first pixel, in row-major order, whose index is
at or above PALN; nothing else but the destination bytes changes. -/
def Obligations.PalxRefusesTheFirstBadIndex : Prop :=
  ∀ (s : State) (depth : Byte) (src w h dst srclen : Word) (x y : Nat),
    let d := depth.toNat
    let rbw := divCeil (w.toNat * d) 8
    let n := w.toNat * h.toNat * s.pal.palc.toNat
    let index := fun x y => lane (s.mem.byte (src.toNat + y * rbw + x * d / 8)) d x
    d ∈ [1, 2, 4, 8] → x < w.toNat → y < h.toNat → 1 ≤ s.pal.paln.toNat → srclen.toNat = h.toNat * rbw →
    Ready s src (h.toNat * rbw) dst n →
    (∀ v < h.toNat, ∀ u < w.toNat, v * w.toNat + u < y * w.toNat + x → index u v < s.pal.paln.toNat) →
    s.pal.paln.toNat ≤ index x y →
    ∃ (m : Memory) (k : Nat),
      exec (.palx depth src w h dst srclen) s =
        .next { faulted s ⟨14, index x y, s.pal.paln.toNat, (y * w.toNat + x) % 2 ^ 32⟩ with mem := m, freeDraws := k } ∧
      SameOutside s m dst.toNat n

/-! ## Compositor (R240 to R254) -/

/-- R242: ACFG with legal operands writes the six configuration registers, clears the other six, and changes nothing else. -/
def Obligations.AcfgConfiguresAndClears : Prop :=
  ∀ (s : State) (channels ss : Byte) (canvas w h snap : Word),
    1 ≤ channels.toNat ∧ channels.toNat ≤ 4 → ss.toNat ∈ [1, 2] → 1 ≤ w.toNat ∧ 1 ≤ h.toNat →
    exec (.acfg channels ss canvas w h snap) s =
      .next { s with
        comp := { acanvas := canvas, asnap := snap, aw := w, ah := h, ach := BitVec.ofNat 32 channels.toNat,
                  ass := BitVec.ofNat 32 ss.toNat, aframes := 0, apx := 0, apy := 0, apw := 0, aph := 0, apdisp := 0 }
        cp := s.cp + 32 }

/-- R243, R244, R250, R254: COMPOSE of a first frame, or of a frame with blend "source", completes: the snapshot is the canvas
after the dispose step (zeros before the first frame), the canvas is that with the effective rectangle overwritten by the frame
raster, the output is the whole canvas, the rectangle and tag are recorded, OLEN = CB, CP advanced; every other register and
every byte outside canvas, snapshot and output is unchanged. -/
def Obligations.ComposeSourceOverwritesTheRectangle : Prop :=
  ∀ (s : State) (dispose blend : Byte) (src fw fh out x y : Word),
    let c := s.comp
    let e := effectiveRect c blend fw fh x y
    c.Inv → ComposeReady s dispose blend src fw fh out x y → c.aframes = 0 ∨ blend = 0 →
    ∃ m : Memory,
      exec (.compose dispose blend src fw fh out x y) s =
        .next { s with mem := m, comp := recorded c dispose e, olen := BitVec.ofNat 32 c.cb, cp := s.cp + 32 } ∧
      (∀ Y < c.ah.toNat, ∀ X < c.aw.toNat, ∀ j < c.px,
        m.byte (c.asnap.toNat + canvasOffset c X Y j) = baseByte s X Y j ∧
        m.byte (c.acanvas.toNat + canvasOffset c X Y j) =
          if InRect e X Y then s.mem.byte (frameAddr c e src.toNat X Y j) else baseByte s X Y j) ∧
      (∀ i < c.cb, m.byte (out.toNat + i) = m.byte (c.acanvas.toNat + i)) ∧ SameOutsideCanvas s m out

/-- R243, R245, R250: COMPOSE of a later frame with blend "over" completes: the snapshot is the canvas after the dispose step,
every sample of a pixel in the rectangle is OVER of the frame's sample, the canvas's and the frame pixel's last sample, pixels
outside it are as the dispose step left them, the output is the whole canvas, the rectangle and tag are recorded, OLEN = CB, CP
advanced; every other register and every byte outside canvas, snapshot and output is unchanged. OVER is any instance of R252. -/
def Obligations.ComposeOverBlendsEverySample : Prop :=
  ∀ (s : State) (dispose blend : Byte) (src fw fh out x y : Word),
    let c := s.comp
    let e := effectiveRect c blend fw fh x y
    let ss := c.ass.toNat
    c.Inv → ComposeReady s dispose blend src fw fh out x y → c.aframes ≠ 0 → blend = 1 →
    ∃ m : Memory,
      exec (.compose dispose blend src fw fh out x y) s =
        .next { s with mem := m, comp := recorded c dispose e, olen := BitVec.ofNat 32 c.cb, cp := s.cp + 32 } ∧
      (∀ Y < c.ah.toNat, ∀ X < c.aw.toNat,
        (∀ j < c.px, m.byte (c.asnap.toNat + canvasOffset c X Y j) = baseByte s X Y j) ∧
        (¬InRect e X Y → ∀ j < c.px, m.byte (c.acanvas.toNat + canvasOffset c X Y j) = baseByte s X Y j) ∧
        (InRect e X Y → ∀ k < c.ach.toNat,
          let fg := sampleOf s.cfg.hle ss fun j => s.mem.byte (frameAddr c e src.toNat X Y j)
          sampleOf s.cfg.hle ss (fun j => m.byte (c.acanvas.toNat + canvasOffset c X Y j)) k =
            blendOver s.config.overFn ss (decide (k = c.ach.toNat - 1)) (fg k) (sampleOf s.cfg.hle ss (baseByte s X Y) k)
              (fg (c.ach.toNat - 1)))) ∧
      (∀ i < c.cb, m.byte (out.toNat + i) = m.byte (c.acanvas.toNat + i)) ∧ SameOutsideCanvas s m out

/-- R252: whatever OVER is, its result is a sample; (a) for a colour channel alpha 0 gives the background and full alpha the
foreground; (b) a colour result lies between the two; (c) the alpha result does not use the foreground sample (the model's reading of (c), log
entry 14). -/
def Obligations.EveryOverIsAdmissible : Prop :=
  ∀ (inst : Config.OverInstance) (ss fg bg araw : Nat), ss ∈ [1, 2] →
    let maxv := 2 ^ (8 * ss) - 1
    fg ≤ maxv → bg ≤ maxv → araw ≤ maxv →
    (∀ isAlpha, blendOver inst ss isAlpha fg bg araw ≤ maxv) ∧
    blendOver inst ss false fg bg 0 = bg ∧ blendOver inst ss false fg bg maxv = fg ∧
    (min fg bg ≤ blendOver inst ss false fg bg araw ∧ blendOver inst ss false fg bg araw ≤ max fg bg) ∧
    ∀ fg' ≤ maxv, blendOver inst ss true fg bg araw = blendOver inst ss true fg' bg araw

/-- R253: OVER_LIT and OVER_NORM are the floor of the exact quotient; they differ only in the foreground of the alpha
channel, 1 and full scale. With OVER_LIT a fully opaque source leaves alpha 1, and over a fully opaque background the alpha
result is below full scale whenever the source alpha is not 0. The seven values the rule lists. -/
def Obligations.DefaultOverIsTheLiteralFormula : Prop :=
  (overLit 1 false 200 64 128 = 132 ∧ overLit 1 true 128 255 128 = 127 ∧ overLit 1 true 255 0 255 = 1 ∧
    overLit 1 false 255 0 1 = 1 ∧ overLit 1 false 0 255 254 = 1 ∧ overLit 2 false 0x1234 0xFFFF 0x8000 = 0x8919 ∧
    overLit 2 true 0x8000 0xFFFF 0x8000 = 0x7FFF) ∧
  (∀ ss ∈ [1, 2], ∀ fg bg araw : Nat,
    blendOver .lit ss true fg bg (2 ^ (8 * ss) - 1) = 1 ∧
    (0 < araw → araw ≤ 2 ^ (8 * ss) - 1 → blendOver .lit ss true fg (2 ^ (8 * ss) - 1) araw < 2 ^ (8 * ss) - 1)) ∧
  ∀ (ss : Nat) (isAlpha : Bool) (fg bg araw : Nat), ss ∈ [1, 2] →
    let maxv : Nat := 2 ^ (8 * ss) - 1
    let quotient : Nat → ℚ := fun f => ((araw : ℚ) * f + ((maxv : ℚ) - araw) * bg) / maxv
    araw ≤ maxv →
    (blendOver .lit ss isAlpha fg bg araw : ℤ) = ⌊quotient (if isAlpha then 1 else fg)⌋ ∧
    (blendOver .norm ss isAlpha fg bg araw : ℤ) = ⌊quotient (if isAlpha then maxv else fg)⌋

/-! ## Faults (R70, R281, R296, R300, R301) -/

/-- R142, R143, R170, R175, R199, R296: the row-level commands record the first failing check before any write, with its code
and information words, and change nothing else. -/
def Obligations.RowCommandsRecordTheFirstFailingCheck : Prop :=
  ∀ (s : State) (f1 f2 : Byte) (src a b dst : Word) (r : Report),
    let d := f1.toNat
    let bppReport := failing (!decide (1 ≤ d ∧ d ≤ 8)) ⟨8, d, 0, 1⟩
    (firstOf (depthReport f1 [1, 2, 4] ::
        rangeReports s src (b.toNat * divCeil (a.toNat * d) 8) dst (b.toNat * a.toNat)) = some r →
      exec (.unpack f1 src a b dst) s = .next (faulted s r)) ∧
    (firstOf (depthReport f1 [1, 2, 4] ::
        rangeReports s src (b.toNat * a.toNat) dst (b.toNat * divCeil (a.toNat * d) 8)) = some r →
      exec (.pack f1 src a b dst) s = .next (faulted s r)) ∧
    (firstOf (bppReport :: rangeReports s src (b.toNat * (a.toNat + 1)) dst (b.toNat * a.toNat)) = some r →
      exec (.unfilt f1 src a b dst) s = .next (faulted s r)) ∧
    (firstOf (bppReport :: failing (decide (4 < f2.toNat)) ⟨10, f2.toNat, 0xFFFFFFFF, 0⟩ ::
        rangeReports s src (b.toNat * a.toNat) dst (b.toNat * (a.toNat + 1))) = some r →
      exec (.filt f1 f2 src a b dst) s = .next (faulted s r)) ∧
    (firstOf (rangeReports s src (2 * a.toNat) dst (2 * a.toNat)) = some r →
      exec (.swap16 src a dst) s = .next (faulted s r))

/-- R196, R197, R225, R296: the image-level commands DEINT, INTL and PALX record the first failing check before any write, with
its code and information words, and change nothing else. -/
def Obligations.ImageCommandsRecordTheFirstFailingCheck : Prop :=
  ∀ (s : State) (depth channels il : Byte) (src w h dst srclen : Word) (r : Report),
    let d := depth.toNat
    let c := channels.toNat
    let n := w.toNat * h.toNat * pixBytes d c
    let len := streamLen d c il.toNat w.toNat h.toNat
    let rbw := divCeil (w.toNat * d) 8
    let image := [depthReport depth [1, 2, 4, 8, 16], channelsReport channels,
      failing (decide (1 < il.toNat)) ⟨11, il.toNat, 0, 0⟩, sizeReport w h]
    let length := fun expected : Nat => failing (srclen.toNat != expected) ⟨9, srclen.toNat, min expected (2 ^ 32 - 1), 0⟩
    (firstOf (image ++ rangeReports s src len dst n) = some r →
      exec (.deint depth channels il src w h dst) s = .next (faulted s r)) ∧
    (firstOf (image ++ length n :: rangeReports s src n dst len) = some r →
      exec (.intl depth channels il src w h dst srclen) s = .next (faulted s r)) ∧
    (firstOf ([depthReport depth [1, 2, 4, 8], sizeReport w h, failing (s.pal.paln == 0) ⟨13, 0, 0, 0⟩,
        length (h.toNat * rbw)] ++
        rangeReports s src (h.toNat * rbw) dst (w.toNat * h.toNat * s.pal.palc.toNat)) = some r →
      exec (.palx depth src w h dst srclen) s = .next (faulted s r))

/-- R221, R223, R242, R296: PALLD, PALTR and ACFG record the first failing check, and change nothing else. -/
def Obligations.SetupCommandsRecordTheFirstFailingCheck : Prop :=
  ∀ (s : State) (channels ss : Byte) (src n w h snap : Word) (r : Report),
    (firstOf [failing (n.toNat % 3 != 0) ⟨12, n.toNat, 1, 0⟩, failing (decide (256 < n.toNat / 3)) ⟨12, n.toNat, 2, 0⟩,
        accessReport s src n.toNat 1] = some r →
      exec (.palld src n) s = .next (faulted s r)) ∧
    (firstOf [failing (decide (s.pal.paln.toNat < n.toNat)) ⟨15, n.toNat, s.pal.paln.toNat, 0⟩,
        accessReport s src n.toNat 1] = some r →
      exec (.paltr src n) s = .next (faulted s r)) ∧
    (firstOf [channelsReport channels, depthReport ss [1, 2], sizeReport w h] = some r →
      exec (.acfg channels ss src w h snap) s = .next (faulted s r))

/-- R250, R254, R296: COMPOSE records its first failing check: tags, then NO_CANVAS, then the geometry of a later frame, then
its four ranges, then the first overlapping pair in scan order; and changes nothing else. -/
def Obligations.ComposeRecordsTheFirstFailingCheck : Prop :=
  ∀ (s : State) (dispose blend : Byte) (src fw fh out x y : Word) (r : Report),
    let c := s.comp
    let e := effectiveRect c blend fw fh x y
    let n := e.ew * e.eh * c.px
    let later := c.aframes != 0
    firstOf [failing (decide (2 < dispose.toNat)) ⟨16, dispose.toNat, 0, 0⟩,
        failing (decide (1 < blend.toNat)) ⟨17, blend.toNat, 0, 0⟩, failing (c.aw == 0) ⟨19, 0, 0, 0⟩,
        failing (later && decide (fw.toNat = 0 ∨ fh.toNat = 0)) ⟨8, fw.toNat, fh.toNat, 3⟩,
        failing (later && decide (c.aw.toNat < x.toNat + fw.toNat ∨ c.ah.toNat < y.toNat + fh.toNat)) ⟨8, x.toNat, y.toNat, 4⟩,
        accessReport s src n 1, accessReport s c.acanvas c.cb 2, accessReport s c.asnap c.cb 3, accessReport s out c.cb 4,
        overlapReport src n c.acanvas c.cb 1 2, overlapReport src n c.asnap c.cb 1 3, overlapReport src n out c.cb 1 4,
        overlapReport c.acanvas c.cb c.asnap c.cb 2 3, overlapReport c.acanvas c.cb out c.cb 2 4,
        overlapReport c.asnap c.cb out c.cb 3 4] = some r →
      exec (.compose dispose blend src fw fh out x y) s = .next (faulted s r)

/-- R300, R301: after any command that faults, ERRCODE is one of the nineteen codes, ERRCP is the command's CP, and CP, CUR,
OLEN, CFG, the latches, the palette unit, the compositor and the open parameters are as they were when the command began; so is
CRCR, except that CRCCHK may have written it. -/
def Obligations.FaultEntryChangesNothingElse : Prop :=
  ∀ (i : Instr) (s t : State), s.status = .busy → exec i s = .next t → t.status = .err →
    (1 ≤ t.err.errcode.toNat ∧ t.err.errcode.toNat ≤ 19) ∧ t.err.errcp = s.cp ∧
    (t.cp = s.cp ∧ t.cur = s.cur ∧ t.olen = s.olen ∧ t.cfg = s.cfg ∧ t.x = s.x ∧ t.pal = s.pal ∧ t.comp = s.comp ∧
      t.config = s.config) ∧
    (t.crcr = s.crcr ∨ ∃ crclen name, i = .crcchk crclen name ∧ t.err.errcode = 5)

/-- R70: a fault raised by a check before any write leaves MEM unchanged; a data-dependent fault leaves every byte outside the
command's written ranges unchanged. -/
def Obligations.MemoryAfterAFault : Prop :=
  ∀ (i : Instr) (s t : State), s.status = .busy → exec i s = .next t → t.status = .err →
    (dataDependent t.err.errcode i = false → ∀ b, t.mem.byte b = s.mem.byte b) ∧
    ∀ b, Outside (writtenRanges s i) b → t.mem.byte b = s.mem.byte b

/-- R97, R221: a well-formed command never raises BAD_DEPTH, BAD_CHANNELS, BAD_INTERLACE, PAL_LENGTH, BAD_DISPOSE or BAD_BLEND; one
that is not a COMPOSE, whose geometry checks compare the frame with the canvas, never raises BAD_GEOMETRY; and FILT never raises
BAD_FILTER. -/
def Obligations.WellFormedCommandsPassTheirFieldChecks : Prop :=
  ∀ (i : Instr) (s t : State), i.wellFormed = true → s.status = .busy → exec i s = .next t → t.status = .err →
    (∀ code ∈ [6, 7, 11, 12, 16, 17], t.err.errcode.toNat ≠ code) ∧
    (i.opcode ≠ .compose → t.err.errcode.toNat ≠ 8) ∧
    ∀ bpp kind src rb rows dst, i = .filt bpp kind src rb rows dst → t.err.errcode.toNat ≠ 10

/-! ## Who writes what, run states, termination -/

/-- R24, R29, R30 to R32, R34, R35, R38: no command writes CFG, the latches or the open parameters; only SETCUR and CRCCHK
write CUR; only CRC and CRCCHK write CRCR; only the data commands write OLEN; only PALLD and PALTR write the palette unit; only
ACFG and COMPOSE write the compositor registers. -/
def Obligations.RegistersAreWrittenOnlyByTheirCommands : Prop :=
  ∀ (i : Instr) (s t : State), exec i s = .next t →
    (t.cfg = s.cfg ∧ t.x = s.x ∧ t.config = s.config) ∧
    (i.opcode ∉ [.setcur, .crcchk] → t.cur = s.cur) ∧ (i.opcode ∉ [.crc, .crcchk] → t.crcr = s.crcr) ∧
    (i.opcode ∉ [.unpack, .pack, .unfilt, .filt, .deint, .intl, .swap16, .palx, .compose] → t.olen = s.olen) ∧
    (i.opcode ∉ [.palld, .paltr] → t.pal = s.pal) ∧ (i.opcode ∉ [.acfg, .compose] → t.comp = s.comp)

/-- R20, R67, R69: no command changes a byte of MEM outside the written ranges of its rule; a command that writes no buffer
changes none. The compositor registers are assumed as every run keeps them (`Compositor.Inv`). -/
def Obligations.MemoryIsWrittenOnlyInsideTheRanges : Prop :=
  ∀ (i : Instr) (s t : State), s.comp.Inv → s.pal.Inv → exec i s = .next t →
    ∀ b, Outside (writtenRanges s i) b → t.mem.byte b = s.mem.byte b

/-- R26, R310: the engine's transitions: BUSY goes to BUSY, to DONE only on HALT, or to ERR; a stopped engine does nothing (a step
answers the same state, log entry 11). -/
def Obligations.EngineRunStateTransitions : Prop :=
  (∀ s : State, s.status ≠ .busy → step s = .next s) ∧
  (∀ s t : State, s.status = .busy → step s = .next t →
    t.status = .busy ∨ t.status = .err ∨ (t.status = .done ∧ decode s.descriptorAtCp = .ok .halt))

/-- R339, R307: when MEMSIZE < 2^32 every run ends: from any state, at most ⌊MEMSIZE / 32⌋ commands and one more step bring the
engine out of BUSY, and a run that began in BUSY has then ended, in DONE or in ERR. -/
def Obligations.EveryRunEnds : Prop :=
  ∀ s : State, s.config.memSize < 2 ^ 32 →
    ∃ k ≤ s.config.memSize / 32 + 1, ∃ t : State, Host.Core.run Sys2Proof.core k s = .next t ∧ t.status ≠ .busy ∧
      (s.status = .busy → State.ended t)

/-! ## Invariants -/

/-- R8, R33, R34, R38, R60: every step keeps the standing facts of a state: legal MEMSIZE, memory in the model's canonical form and
inside MEMSIZE, the palette counts, the compositor's record, and the fault registers 0 unless the engine is in ERR. -/
def Obligations.EveryStepKeepsTheInvariant : Prop := ∀ s t : State, s.Inv → step s = .next t → t.Inv

/-- R333: every move of the host keeps the standing facts of a state (`State.Inv`) too. -/
def Obligations.EveryHostMoveKeepsTheInvariant : Prop :=
  ∀ (a : HostAction) (s t : State), s.Inv → hostStep a s = .next t → t.Inv

/-- The standing facts of a state (`State.Inv`) hold at `State.reset`, and of every state that engine steps and host moves reach from
the reset state with any legal MEMSIZE and any OVER. -/
def Obligations.EveryReachableStateHasTheInvariant : Prop :=
  State.reset.Inv ∧ ∀ (config : Config.Params) (s : State), config.Legal → Reachable config s → s.Inv

/-! ## Reset and host (R25 to R30, R50, R320 to R333) -/

/-- R50, R320: after reset every register of the map reads 0, for every MEMSIZE and OVER. -/
def Obligations.AfterResetEveryRegisterReadsZero : Prop :=
  ∀ (config : Config.Params) (n : Nat), (State.resetWith config).register n = 0 ∧ (State.resetWith config).status = .idle

/-- R320, R322, R25: a reset, by the reset input or by writing CTRL with RST set, is possible in every run state, wins over GO,
leaves the engine IDLE with every register reading 0 and the same MEMSIZE and OVER, and writes no byte of MEM; one that reaches
a BUSY engine in the middle of a command (the host move `resetDuringCommand`, log entry 10) leaves every byte outside that command's
written ranges as it was. -/
def Obligations.ResetFromEveryState : Prop :=
  (∀ s : State, ∃ t, hostStep .hardReset s = .next t ∧ (∀ v : Word, v.getLsbD 1 = true → hostStep (.writeReg 0 v) s = .next t) ∧
    t.status = .idle ∧ (∀ n, t.register n = 0) ∧ t.config = s.config ∧ ∀ b, t.mem.byte b = s.mem.byte b) ∧
  (∀ s : State, ∃ t, hostStep .resetDuringCommand s = .next t ∧
    t.status = .idle ∧ (∀ n, t.register n = 0) ∧ t.config = s.config ∧
    ∀ b, (∀ i, decode s.descriptorAtCp = .ok i → Outside (writtenRanges s i) b) → t.mem.byte b = s.mem.byte b)

/-- R25, R323: GO (without RST) in IDLE or DONE starts the engine and changes nothing else; in ERR it is ignored, and so it is
in BUSY (ruling U15 of 93_implementation_defined.md, as log entry 20 reads it). A write of 0 to both bits does nothing while not
BUSY; while BUSY it is no move of the host (R27, R333), which the model refuses by name (log entry 8). -/
def Obligations.GoStartsAStoppedEngine : Prop :=
  ∀ (s : State) (v : Word), v.getLsbD 1 = false →
    (v.getLsbD 0 = true → s.status = .idle ∨ s.status = .done → hostStep (.writeReg 0 v) s = .next { s with status := .busy }) ∧
    (v.getLsbD 0 = true → s.status = .err ∨ s.status = .busy → hostStep (.writeReg 0 v) s = .next s) ∧
    (v.getLsbD 0 = false → s.status ≠ .busy → hostStep (.writeReg 0 v) s = .next s) ∧
    (v.getLsbD 0 = false → s.status = .busy → hostStep (.writeReg 0 v) s = .refused .hostAccessWhileBusy)

/-- R24, R26, R27, R28, R29, R333: while not BUSY the host reads every register number of R24's map as the register it names, and writes CFG (its two bits; the rest reads 0), CP and CUR, every other
register but CTRL ignores the write, and reserved registers and CTRL read 0; while BUSY it reads STATUS and nothing else (any other
access is refused by name, log entry 8). -/
def Obligations.HostRegisterAccess : Prop :=
  (∀ (s : State) (v : Word), s.status ≠ .busy →
    (∃ t, hostStep (.writeReg 2 v) s = .next t ∧ t = { s with cfg := t.cfg } ∧ (t.register 2).toNat = v.toNat % 4) ∧
    hostStep (.writeReg 3 v) s = .next { s with cp := v } ∧ hostStep (.writeReg 4 v) s = .next { s with cur := v } ∧
    (∀ n, n ∉ [0, 2, 3, 4] → hostStep (.writeReg n v) s = .next s) ∧ (∀ r ∈ registerMap s, hostReadReg s r.1 = .ok r.2) ∧
    ∀ n, hostReadReg s n = .ok (s.register n)) ∧
  (∀ (s : State) (n : Nat), n = 0 ∨ n = 0x0E ∨ n = 0x0F ∨ (0x1C ≤ n ∧ n ≤ 0x1F) ∨ 0x28 ≤ n → s.register n = 0) ∧
  (∀ s : State, s.status = .busy → hostReadReg s 1 = .ok 1 ∧
    (∀ n, n ≠ 1 → hostReadReg s n = .error .hostAccessWhileBusy) ∧
    ∀ n v, n ≠ 0 → hostStep (.writeReg n v) s = .refused .hostAccessWhileBusy)

/-- R69, R333: while not BUSY, a byte the host writes inside MEM (one byte an access, log entry 19) reads back, every other byte and every register is unchanged;
an address at or above MEMSIZE does not exist (a read and a write fault there, log entry 9); while BUSY there is no access to MEM (a
read and a write are refused by name, log entry 8). -/
def Obligations.HostMemoryAccess : Prop :=
  ∀ (s : State) (a : Nat) (b : Byte),
    (s.status ≠ .busy → a < s.config.memSize →
      ∃ m : Memory, hostStep (.writeMem a b) s = .next { s with mem := m } ∧
        (∀ a', m.byte a' = if a' = a then b else s.mem.byte a') ∧ hostReadMem s a = .ok (s.mem.byte a)) ∧
    (s.status ≠ .busy → s.config.memSize ≤ a →
      hostStep (.writeMem a b) s = .fault (.noSuchAddress a) ∧ hostReadMem s a = .error (.inl (.noSuchAddress a))) ∧
    (s.status = .busy →
      hostStep (.writeMem a b) s = .refused .hostAccessWhileBusy ∧ hostReadMem s a = .error (.inr .hostAccessWhileBusy))
end

