-- ==== Sys2Proof/Laws/Decode.lean ====
section
/-!
SUPPORT. The small lemmas of the encoding: the bits and bytes of a word, the words of a descriptor, the opcode map.
-/

namespace Sys2Proof

theorem be32_bit (a b c d : Byte) (i : Nat) :
    (be32 a b c d).getLsbD i =
      if i < 8 then d.getLsbD i else if i < 16 then c.getLsbD (i - 8)
      else if i < 24 then b.getLsbD (i - 16) else a.getLsbD (i - 24) := by
  unfold be32
  simp only [BitVec.getLsbD_append]
  split_ifs <;> first | rfl | (exfalso; omega)

theorem wordByte_bit (w : Word) (k i : Nat) :
    (wordByte w k).getLsbD i = (decide (i < 8) && w.getLsbD (24 - 8 * k + i)) := by
  simp [wordByte, BitVec.getLsbD_extractLsb']

/-- Byte 0 of a word is its most significant byte. -/
@[simp] theorem wordByte_be32_0 (a b c d : Byte) : wordByte (be32 a b c d) 0 = a := by
  refine BitVec.eq_of_getLsbD_eq fun i hi => ?_
  rw [wordByte_bit, be32_bit]
  simp only [hi, decide_true, Bool.true_and]
  split_ifs <;> first | omega | (congr 1; omega)

@[simp] theorem wordByte_be32_1 (a b c d : Byte) : wordByte (be32 a b c d) 1 = b := by
  refine BitVec.eq_of_getLsbD_eq fun i hi => ?_
  rw [wordByte_bit, be32_bit]
  simp only [hi, decide_true, Bool.true_and]
  split_ifs <;> first | omega | (congr 1; omega)

@[simp] theorem wordByte_be32_2 (a b c d : Byte) : wordByte (be32 a b c d) 2 = c := by
  refine BitVec.eq_of_getLsbD_eq fun i hi => ?_
  rw [wordByte_bit, be32_bit]
  simp only [hi, decide_true, Bool.true_and]
  split_ifs <;> first | omega | (congr 1; omega)

@[simp] theorem wordByte_be32_3 (a b c d : Byte) : wordByte (be32 a b c d) 3 = d := by
  refine BitVec.eq_of_getLsbD_eq fun i hi => ?_
  rw [wordByte_bit, be32_bit]
  simp only [hi, decide_true, Bool.true_and]
  split_ifs <;> first | omega | (congr 1; omega)

/-- R15: `bytes_be32` and `be32` are inverse. -/
theorem be32_wordByte (w : Word) : be32 (wordByte w 0) (wordByte w 1) (wordByte w 2) (wordByte w 3) = w := by
  refine BitVec.eq_of_getLsbD_eq fun i hi => ?_
  simp only [be32_bit, wordByte_bit]
  split_ifs with h1 h2 h3
  · simp [h1]
  · have : i - 8 < 8 := by omega
    simp only [this, decide_true, Bool.true_and]; congr 1; omega
  · have : i - 16 < 8 := by omega
    simp only [this, decide_true, Bool.true_and]; congr 1; omega
  · have : i - 24 < 8 := by omega
    simp only [this, decide_true, Bool.true_and]; congr 1; omega

/-- The big-endian value of four bytes, as R15 writes it. -/
theorem be32_toNat (a b c d : Byte) :
    (be32 a b c d).toNat = a.toNat * 2 ^ 24 + b.toNat * 2 ^ 16 + c.toNat * 2 ^ 8 + d.toNat := by
  have hb : b.toNat < 2 ^ 8 := b.isLt
  have hc : c.toNat < 2 ^ 8 := c.isLt
  have hd : d.toNat < 2 ^ 8 := d.isLt
  simp only [be32, BitVec.toNat_append, Nat.shiftLeft_eq]
  rw [← Nat.shiftLeft_eq a.toNat, ← Nat.shiftLeft_add_eq_or_of_lt hb, Nat.shiftLeft_eq a.toNat,
    ← Nat.shiftLeft_eq (a.toNat * 2 ^ 8 + b.toNat), ← Nat.shiftLeft_add_eq_or_of_lt hc,
    ← Nat.shiftLeft_eq ((a.toNat * 2 ^ 8 + b.toNat) <<< 8 + c.toNat), ← Nat.shiftLeft_add_eq_or_of_lt hd]
  simp only [Nat.shiftLeft_eq]
  omega

/-- The descriptor of the 32 bytes of a descriptor is that descriptor, whatever bytes follow. -/
theorem descriptorOfBytes_descriptorBytes (w0 w1 w2 w3 w4 w5 w6 w7 : Word) (rest : List Byte) :
    descriptorOfBytes (descriptorBytes #v[w0, w1, w2, w3, w4, w5, w6, w7] ++ rest) =
      some #v[w0, w1, w2, w3, w4, w5, w6, w7] := by
  simp [descriptorBytes, bytesBe32, descriptorOfBytes, be32_wordByte]

@[simp] theorem length_descriptorBytes (x : Descriptor) : (descriptorBytes x).length = 32 := by
  simp [descriptorBytes, bytesBe32]

/-- R94: the decoder selects the command by OP alone. -/
@[simp] theorem Opcode.ofByte_byte (op : Opcode) : Opcode.ofByte op.byte = some op := by
  cases op <;> decide

theorem Opcode.byte_of_ofByte {b : Byte} {op : Opcode} (h : Opcode.ofByte b = some op) : op.byte = b := by
  simpa using List.find?_some h

end Sys2Proof
end

