-- ==== Sys2Proof/Laws/Operands.lean ====
section
/-!
SUPPORT. What the shared checks decide: when a list of checks passes, when ranges are admitted, when two or four ranges do not
overlap.
-/

namespace Sys2Proof.Machine

theorem require_eq_none {c : Bool} {f : Raise} : require c f = none ↔ c = true := by
  cases c <;> simp [require]

theorem require_eq_some {c : Bool} {f g : Raise} : require c f = some g ↔ c = false ∧ f = g := by
  cases c <;> simp [require]

/-- A list of checks passes when each of them does. -/
theorem firstRaise_eq_none {cs : List (Option Raise)} : firstRaise cs = none ↔ ∀ c ∈ cs, c = none := by
  induction cs with
  | nil => simp [firstRaise]
  | cons c cs ih => cases c <;> simp [firstRaise, ih]

/-- A list of checks fails with the fault of a check all of whose predecessors pass (R296). -/
theorem firstRaise_eq_some {cs : List (Option Raise)} {f : Raise} (h : firstRaise cs = some f) :
    ∃ pre post, cs = pre ++ some f :: post ∧ ∀ c ∈ pre, c = none := by
  induction cs with
  | nil => simp [firstRaise] at h
  | cons c cs ih =>
    cases c with
    | none =>
      obtain ⟨pre, post, rfl, hpre⟩ := ih h
      exact ⟨none :: pre, post, rfl, by simpa using hpre⟩
    | some g =>
      obtain rfl : g = f := by simpa [firstRaise] using h
      exact ⟨[], cs, rfl, by simp⟩

theorem MemRange.admitted_iff {r : MemRange} {size : Nat} : r.admitted size = true ↔ r.len = 0 ∨ r.addr + r.len ≤ size := by
  simp [MemRange.admitted]

theorem accessFrom_eq_none {size k : Nat} {rs : List MemRange} :
    accessFrom size k rs = none ↔ ∀ r ∈ rs, r.admitted size = true := by
  induction rs generalizing k with
  | nil => simp [accessFrom]
  | cons r rs ih => cases h : r.admitted size <;> simp [accessFrom, h, ih]

/-- The range check passes when every range is admitted (R66). -/
theorem checkRanges_eq_none {s : State} {rs : List MemRange} :
    checkRanges s rs = none ↔ ∀ r ∈ rs, r.len = 0 ∨ r.addr + r.len ≤ s.config.memSize := by
  simp [checkRanges, accessFrom_eq_none, MemRange.admitted_iff]

theorem MemRange.overlaps_iff {r q : MemRange} :
    r.overlaps q = true ↔ 0 < r.len ∧ 0 < q.len ∧ r.addr < q.addr + q.len ∧ q.addr < r.addr + r.len := by
  simp [MemRange.overlaps]

theorem overlapWith_eq_none {i j : Nat} {r : MemRange} {qs : List MemRange} :
    overlapWith i r j qs = none ↔ ∀ q ∈ qs, ¬((r.written || q.written) = true ∧ r.overlaps q = true) := by
  induction qs generalizing j with
  | nil => simp [overlapWith]
  | cons q qs ih =>
    cases h : ((r.written || q.written) && r.overlaps q) with
    | true =>
      have h' : (r.written || q.written) = true ∧ r.overlaps q = true := by simpa only [Bool.and_eq_true] using h
      simp only [overlapWith, h, if_true]
      exact iff_of_false (by simp) fun H => H q (by simp) h'
    | false =>
      have h' : ¬((r.written || q.written) = true ∧ r.overlaps q = true) := by
        rw [← Bool.and_eq_true, h]; simp
      simp only [overlapWith, h, Bool.false_eq_true, if_false, ih, List.forall_mem_cons]
      exact ⟨fun H => ⟨h', H⟩, fun H => H.2⟩

/-- The overlap check passes when no pair with a written range overlaps (R67). -/
theorem checkOverlap_eq_none {rs : List MemRange} :
    checkOverlap rs = none ↔ rs.Pairwise fun r q => ¬((r.written || q.written) = true ∧ r.overlaps q = true) := by
  have key : ∀ (i : Nat), overlapFrom i rs = none ↔
      rs.Pairwise fun r q => ¬((r.written || q.written) = true ∧ r.overlaps q = true) := by
    induction rs with
    | nil => intro i; simp [overlapFrom]
    | cons r rs ih =>
      intro i
      rw [List.pairwise_cons, ← overlapWith_eq_none (i := i) (j := i + 1), ← ih (i + 1)]
      cases h : overlapWith i r (i + 1) rs <;> simp [overlapFrom, h]
  exact key 1

/-- A source and a destination do not overlap: one is empty, or one ends before the other begins. -/
theorem checkOverlap_pair {a b : Word} {n m : Nat} :
    checkOverlap [readRange a n, writeRange b m] = none ↔
      n = 0 ∨ m = 0 ∨ a.toNat + n ≤ b.toNat ∨ b.toNat + m ≤ a.toNat := by
  simp only [checkOverlap_eq_none, List.pairwise_cons, List.mem_singleton, forall_eq, List.not_mem_nil, false_imp_iff,
    implies_true, List.Pairwise.nil, and_true, readRange, writeRange, MemRange.overlaps_iff, Bool.or_true, true_and]
  omega

end Sys2Proof.Machine
end

