-- ==== Sys2Proof/Laws/Memory.lean ====
section
/-!
SUPPORT. The laws of MEM: a read after a write, what a write leaves alone, and that every operation keeps the canonical form.
-/

namespace Sys2Proof.Machine

/-! ### Cells -/

theorem lookup_filter_key (p : Nat → Bool) (m : Memory) (b : Nat) :
    (m.filter fun c => p c.1).lookup b = if p b then m.lookup b else none := by
  induction m with
  | nil => simp
  | cons c m ih =>
    obtain ⟨k, v⟩ := c
    by_cases hk : p k <;> by_cases hb : b = k
    · subst hb; simp [hk]
    · have : (b == k) = false := by simpa using hb
      simp [hk, List.lookup_cons, this, ih]
    · subst hb; simp [hk, ih]
    · have : (b == k) = false := by simpa using hb
      simp [hk, List.lookup_cons, this, ih]

theorem mem_cellsFrom {a : Nat} {bs : List Byte} {c : Host.Cell} (h : c ∈ cellsFrom a bs) :
    a ≤ c.1 ∧ c.1 < a + bs.length := by
  induction bs generalizing a with
  | nil => simp [cellsFrom] at h
  | cons b bs ih =>
    simp only [cellsFrom, List.mem_cons] at h
    rcases h with rfl | h
    · simp
    · have := ih h; simp only [List.length_cons]; omega

theorem cellsFrom_pairwise (a : Nat) (bs : List Byte) : (cellsFrom a bs).Pairwise fun c d => c.1 < d.1 := by
  induction bs generalizing a with
  | nil => simp [cellsFrom]
  | cons b bs ih =>
    refine List.pairwise_cons.2 ⟨fun d hd => ?_, ih (a + 1)⟩
    have := mem_cellsFrom hd
    simp only; omega

/-- The byte that the listed cells of a write give at an address. -/
theorem lookup_cellsFrom (a : Nat) (bs : List Byte) (b : Nat) :
    (((cellsFrom a bs).filter fun c => c.2 != unlistedByte).lookup b).getD unlistedByte =
      if a ≤ b ∧ b < a + bs.length then bs.getD (b - a) 0 else unlistedByte := by
  induction bs generalizing a with
  | nil =>
    simp [cellsFrom]
  | cons v bs ih =>
    simp only [cellsFrom, List.filter_cons, List.length_cons]
    by_cases hb : b = a
    · subst hb
      by_cases hv : v = unlistedByte
      · simp [hv, ih]
      · simp [hv]
    · have hne : (b == a) = false := by simpa using hb
      have key : (if a + 1 ≤ b ∧ b < a + 1 + bs.length then bs.getD (b - (a + 1)) 0 else unlistedByte) =
          if a ≤ b ∧ b < a + (bs.length + 1) then (v :: bs).getD (b - a) 0 else unlistedByte := by
        by_cases h : a + 1 ≤ b ∧ b < a + 1 + bs.length
        · have h' : a ≤ b ∧ b < a + (bs.length + 1) := by omega
          have e : b - a = (b - (a + 1)) + 1 := by omega
          rw [if_pos h, if_pos h', e, List.getD_cons_succ]
        · have h' : ¬(a ≤ b ∧ b < a + (bs.length + 1)) := by omega
          rw [if_neg h, if_neg h']
      by_cases hv : v = unlistedByte
      · simpa [hv, ih] using key
      · simpa [hv, List.lookup_cons, hne, ih] using key

theorem lookup_eq_none_of_keys {m : Memory} {b : Nat} (h : ∀ c ∈ m, c.1 ≠ b) : m.lookup b = none := by
  induction m with
  | nil => rfl
  | cons c m ih =>
    obtain ⟨k, v⟩ := c
    have hk : (b == k) = false := by simpa using fun e => h (k, v) (by simp) e.symm
    simp only [List.lookup_cons, hk]
    exact ih fun c hc => h c (by simp [hc])

theorem lookup_append (m n : Memory) (b : Nat) : (m ++ n).lookup b = (m.lookup b).or (n.lookup b) := by
  induction m with
  | nil => rfl
  | cons c m ih =>
    obtain ⟨k, v⟩ := c
    cases h : b == k <;> simp [List.lookup_cons, h, ih]

/-! ### Reading -/

@[simp] theorem Memory.byte_nil (a : Nat) : Memory.byte [] a = unlistedByte := rfl

@[simp] theorem Memory.length_read (m : Memory) (a n : Nat) : (m.read a n).length = n := by simp [Memory.read]

theorem Memory.getD_read (m : Memory) (a n i : Nat) (h : i < n) : (m.read a n).getD i 0 = m.byte (a + i) := by
  simp [Memory.read, List.getD_eq_getElem?_getD, h]

theorem Memory.read_congr {m m' : Memory} {a n : Nat} (h : ∀ i < n, m.byte (a + i) = m'.byte (a + i)) :
    m.read a n = m'.read a n := by
  simp only [Memory.read]
  exact List.map_congr_left fun i hi => h i (List.mem_range.1 hi)

/-! ### Writing -/

/-- What a write does to every byte: inside the range the byte written, outside it the byte that was there. -/
theorem Memory.byte_write (m : Memory) (a : Nat) (bs : List Byte) (b : Nat) :
    (m.write a bs).byte b = if a ≤ b ∧ b < a + bs.length then bs.getD (b - a) 0 else m.byte b := by
  have hc := lookup_cellsFrom a bs b
  have hlow := lookup_filter_key (fun k => decide (k < a)) m b
  have hhigh := lookup_filter_key (fun k => decide (a + bs.length ≤ k)) m b
  simp only [Memory.byte, Memory.write, lookup_append, hlow, hhigh, decide_eq_true_eq]
  by_cases h : a ≤ b ∧ b < a + bs.length
  · have h1 : ¬b < a := by omega
    have h2 : ¬a + bs.length ≤ b := by omega
    simpa [h, h1, h2] using hc
  · have hn : ((cellsFrom a bs).filter fun c => c.2 != unlistedByte).lookup b = none :=
      lookup_eq_none_of_keys fun c hc' e => by
        have := mem_cellsFrom (List.mem_of_mem_filter hc')
        omega
    rw [if_neg h, hn]
    by_cases h1 : b < a
    · have h2 : ¬a + bs.length ≤ b := by omega
      simp [h1, h2]
    · have h2 : a + bs.length ≤ b := by omega
      simp [h1, h2]

/-- A write leaves every byte outside its range alone. -/
theorem Memory.byte_write_outside (m : Memory) (a : Nat) (bs : List Byte) (b : Nat) (h : b < a ∨ a + bs.length ≤ b) :
    (m.write a bs).byte b = m.byte b := by
  rw [Memory.byte_write, if_neg (by omega)]

/-- A byte of the range reads as the byte written. -/
theorem Memory.byte_write_inside (m : Memory) (a : Nat) (bs : List Byte) (i : Nat) (h : i < bs.length) :
    (m.write a bs).byte (a + i) = bs.getD i 0 := by
  rw [Memory.byte_write, if_pos (by omega)]; simp

/-- Reading a whole written range gives what was written. -/
theorem Memory.read_write (m : Memory) (a : Nat) (bs : List Byte) : (m.write a bs).read a bs.length = bs := by
  apply List.ext_getElem (by simp)
  intro i h1 h2
  have := Memory.byte_write_inside m a bs i h2
  simpa [Memory.read, List.getD_eq_getElem?_getD, h2] using this

/-- A write keeps the canonical form. -/
theorem Memory.write_wf {m : Memory} (h : m.wf) (a : Nat) (bs : List Byte) : (m.write a bs).wf := by
  refine ⟨List.pairwise_append.2 ⟨List.pairwise_append.2 ⟨h.1.filter _, (cellsFrom_pairwise a bs).filter _, ?_⟩,
    h.1.filter _, ?_⟩, ?_⟩
  · intro c hc d hd
    have h1 := (List.mem_filter.1 hc).2
    have h2 := mem_cellsFrom (List.mem_of_mem_filter hd)
    simp only [decide_eq_true_eq] at h1
    omega
  · intro c hc d hd
    have h2 := (List.mem_filter.1 hd).2
    simp only [decide_eq_true_eq] at h2
    rcases List.mem_append.1 hc with hc | hc
    · have h1 := (List.mem_filter.1 hc).2
      simp only [decide_eq_true_eq] at h1
      omega
    · have h1 := mem_cellsFrom (List.mem_of_mem_filter hc)
      omega
  · intro c hc
    simp only [Memory.write, List.mem_append] at hc
    rcases hc with (hc | hc) | hc
    · exact h.2 c (List.mem_of_mem_filter hc)
    · simpa using (List.mem_filter.1 hc).2
    · exact h.2 c (List.mem_of_mem_filter hc)

/-- A write inside the memory lists no address outside it. -/
theorem Memory.write_inside {m : Memory} {size : Nat} (h : ∀ c ∈ m, c.1 < size) (a : Nat) (bs : List Byte)
    (hw : bs.length = 0 ∨ a + bs.length ≤ size) : ∀ c ∈ m.write a bs, c.1 < size := by
  intro c hc
  simp only [Memory.write, List.mem_append] at hc
  rcases hc with (hc | hc) | hc
  · exact h c (List.mem_of_mem_filter hc)
  · have := mem_cellsFrom (List.mem_of_mem_filter hc)
    omega
  · exact h c (List.mem_of_mem_filter hc)

/-- The empty memory is in canonical form, so the memory of a reset state is. -/
theorem Memory.wf_nil : Memory.wf [] := ⟨List.Pairwise.nil, fun _ h => absurd h (by simp)⟩

theorem reset_mem_wf : State.reset.mem.wf := Memory.wf_nil

/-! ### Equal memories are equal data -/

theorem Memory.byte_cons_self (k : Nat) (v : Byte) (m : Memory) : Memory.byte ((k, v) :: m) k = v := by
  simp [Memory.byte]

theorem Memory.byte_of_keys_gt {m : Memory} {b : Nat} (h : ∀ c ∈ m, b < c.1) : m.byte b = unlistedByte := by
  have hn : m.lookup b = none := lookup_eq_none_of_keys fun c hc e => by have := h c hc; omega
  simp [Memory.byte, hn]

theorem Memory.wf_tail {c : Host.Cell} {m : Memory} (h : Memory.wf (c :: m)) : Memory.wf m :=
  ⟨(List.pairwise_cons.1 h.1).2, fun d hd => h.2 d (by simp [hd])⟩

/-- Two canonical memories that read the same everywhere are the same list. -/
theorem Memory.ext_of_wf {m n : Memory} (hm : m.wf) (hn : n.wf) (h : ∀ a, m.byte a = n.byte a) : m = n := by
  induction m generalizing n with
  | nil =>
    cases n with
    | nil => rfl
    | cons c n =>
      exact absurd ((Memory.byte_cons_self c.1 c.2 n).symm.trans (h c.1).symm) (hn.2 c (by simp))
  | cons c m ih =>
    obtain ⟨k, v⟩ := c
    cases n with
    | nil =>
      exact absurd ((Memory.byte_cons_self k v m).symm.trans (h k)) (hm.2 (k, v) (by simp))
    | cons d n =>
      obtain ⟨l, w⟩ := d
      have hmk := (List.pairwise_cons.1 hm.1).1
      have hnk := (List.pairwise_cons.1 hn.1).1
      have hv : v ≠ unlistedByte := hm.2 (k, v) (by simp)
      have hw : w ≠ unlistedByte := hn.2 (l, w) (by simp)
      have hkl : k = l := by
        rcases Nat.lt_trichotomy k l with hlt | he | hgt
        · have e := (Memory.byte_cons_self k v m).symm.trans (h k)
          rw [Memory.byte_of_keys_gt (m := (l, w) :: n) (b := k)] at e
          · exact absurd e hv
          · intro c hc
            rcases List.mem_cons.1 hc with rfl | hc
            · exact hlt
            · have := hnk c hc; simp only at this; omega
        · exact he
        · have e := (Memory.byte_cons_self l w n).symm.trans (h l).symm
          rw [Memory.byte_of_keys_gt (m := (k, v) :: m) (b := l)] at e
          · exact absurd e hw
          · intro c hc
            rcases List.mem_cons.1 hc with rfl | hc
            · exact hgt
            · have := hmk c hc; simp only at this; omega
      subst hkl
      have hvw : v = w := by
        have := h k
        rwa [Memory.byte_cons_self, Memory.byte_cons_self] at this
      subst hvw
      congr 1
      refine ih (Memory.wf_tail hm) (Memory.wf_tail hn) fun a => ?_
      by_cases ha : a = k
      · subst ha
        rw [Memory.byte_of_keys_gt hmk, Memory.byte_of_keys_gt hnk]
      · have e := h a
        have hne : (a == k) = false := by simpa using ha
        simpa [Memory.byte, List.lookup_cons, hne] using e

end Sys2Proof.Machine
end

