-- ==== Sys2Proof/Laws/State.lean ====
section
/-! SUPPORT. One lemma per field per update of State, so that no proof unfolds a record update. -/

namespace Sys2Proof.Machine

@[simp] theorem State.withMem_config (s : State) (m : Memory) : (s.withMem m).config = s.config := rfl
@[simp] theorem State.withMem_mem (s : State) (m : Memory) : (s.withMem m).mem = m := rfl
@[simp] theorem State.withMem_x (s : State) (m : Memory) : (s.withMem m).x = s.x := rfl
@[simp] theorem State.withMem_cp (s : State) (m : Memory) : (s.withMem m).cp = s.cp := rfl
@[simp] theorem State.withMem_cur (s : State) (m : Memory) : (s.withMem m).cur = s.cur := rfl
@[simp] theorem State.withMem_status (s : State) (m : Memory) : (s.withMem m).status = s.status := rfl
@[simp] theorem State.withMem_cfg (s : State) (m : Memory) : (s.withMem m).cfg = s.cfg := rfl
@[simp] theorem State.withMem_crcr (s : State) (m : Memory) : (s.withMem m).crcr = s.crcr := rfl
@[simp] theorem State.withMem_olen (s : State) (m : Memory) : (s.withMem m).olen = s.olen := rfl
@[simp] theorem State.withMem_err (s : State) (m : Memory) : (s.withMem m).err = s.err := rfl
@[simp] theorem State.withMem_pal (s : State) (m : Memory) : (s.withMem m).pal = s.pal := rfl
@[simp] theorem State.withMem_comp (s : State) (m : Memory) : (s.withMem m).comp = s.comp := rfl
@[simp] theorem State.withMem_freeDraws (s : State) (m : Memory) : (s.withMem m).freeDraws = s.freeDraws := rfl

@[simp] theorem State.withOlen_config (s : State) (n : Nat) : (s.withOlen n).config = s.config := rfl
@[simp] theorem State.withOlen_mem (s : State) (n : Nat) : (s.withOlen n).mem = s.mem := rfl
@[simp] theorem State.withOlen_x (s : State) (n : Nat) : (s.withOlen n).x = s.x := rfl
@[simp] theorem State.withOlen_cp (s : State) (n : Nat) : (s.withOlen n).cp = s.cp := rfl
@[simp] theorem State.withOlen_cur (s : State) (n : Nat) : (s.withOlen n).cur = s.cur := rfl
@[simp] theorem State.withOlen_status (s : State) (n : Nat) : (s.withOlen n).status = s.status := rfl
@[simp] theorem State.withOlen_cfg (s : State) (n : Nat) : (s.withOlen n).cfg = s.cfg := rfl
@[simp] theorem State.withOlen_crcr (s : State) (n : Nat) : (s.withOlen n).crcr = s.crcr := rfl
@[simp] theorem State.withOlen_olen (s : State) (n : Nat) : (s.withOlen n).olen = BitVec.ofNat 32 n := rfl
@[simp] theorem State.withOlen_err (s : State) (n : Nat) : (s.withOlen n).err = s.err := rfl
@[simp] theorem State.withOlen_pal (s : State) (n : Nat) : (s.withOlen n).pal = s.pal := rfl
@[simp] theorem State.withOlen_comp (s : State) (n : Nat) : (s.withOlen n).comp = s.comp := rfl
@[simp] theorem State.withOlen_freeDraws (s : State) (n : Nat) : (s.withOlen n).freeDraws = s.freeDraws := rfl

@[simp] theorem State.withCur_config (s : State) (w : Word) : (s.withCur w).config = s.config := rfl
@[simp] theorem State.withCur_mem (s : State) (w : Word) : (s.withCur w).mem = s.mem := rfl
@[simp] theorem State.withCur_x (s : State) (w : Word) : (s.withCur w).x = s.x := rfl
@[simp] theorem State.withCur_cp (s : State) (w : Word) : (s.withCur w).cp = s.cp := rfl
@[simp] theorem State.withCur_cur (s : State) (w : Word) : (s.withCur w).cur = w := rfl
@[simp] theorem State.withCur_status (s : State) (w : Word) : (s.withCur w).status = s.status := rfl
@[simp] theorem State.withCur_cfg (s : State) (w : Word) : (s.withCur w).cfg = s.cfg := rfl
@[simp] theorem State.withCur_crcr (s : State) (w : Word) : (s.withCur w).crcr = s.crcr := rfl
@[simp] theorem State.withCur_olen (s : State) (w : Word) : (s.withCur w).olen = s.olen := rfl
@[simp] theorem State.withCur_err (s : State) (w : Word) : (s.withCur w).err = s.err := rfl
@[simp] theorem State.withCur_pal (s : State) (w : Word) : (s.withCur w).pal = s.pal := rfl
@[simp] theorem State.withCur_comp (s : State) (w : Word) : (s.withCur w).comp = s.comp := rfl
@[simp] theorem State.withCur_freeDraws (s : State) (w : Word) : (s.withCur w).freeDraws = s.freeDraws := rfl

@[simp] theorem State.withCrcr_config (s : State) (w : Word) : (s.withCrcr w).config = s.config := rfl
@[simp] theorem State.withCrcr_mem (s : State) (w : Word) : (s.withCrcr w).mem = s.mem := rfl
@[simp] theorem State.withCrcr_x (s : State) (w : Word) : (s.withCrcr w).x = s.x := rfl
@[simp] theorem State.withCrcr_cp (s : State) (w : Word) : (s.withCrcr w).cp = s.cp := rfl
@[simp] theorem State.withCrcr_cur (s : State) (w : Word) : (s.withCrcr w).cur = s.cur := rfl
@[simp] theorem State.withCrcr_status (s : State) (w : Word) : (s.withCrcr w).status = s.status := rfl
@[simp] theorem State.withCrcr_cfg (s : State) (w : Word) : (s.withCrcr w).cfg = s.cfg := rfl
@[simp] theorem State.withCrcr_crcr (s : State) (w : Word) : (s.withCrcr w).crcr = w := rfl
@[simp] theorem State.withCrcr_olen (s : State) (w : Word) : (s.withCrcr w).olen = s.olen := rfl
@[simp] theorem State.withCrcr_err (s : State) (w : Word) : (s.withCrcr w).err = s.err := rfl
@[simp] theorem State.withCrcr_pal (s : State) (w : Word) : (s.withCrcr w).pal = s.pal := rfl
@[simp] theorem State.withCrcr_comp (s : State) (w : Word) : (s.withCrcr w).comp = s.comp := rfl
@[simp] theorem State.withCrcr_freeDraws (s : State) (w : Word) : (s.withCrcr w).freeDraws = s.freeDraws := rfl

@[simp] theorem State.withPal_config (s : State) (p : Palette) : (s.withPal p).config = s.config := rfl
@[simp] theorem State.withPal_mem (s : State) (p : Palette) : (s.withPal p).mem = s.mem := rfl
@[simp] theorem State.withPal_x (s : State) (p : Palette) : (s.withPal p).x = s.x := rfl
@[simp] theorem State.withPal_cp (s : State) (p : Palette) : (s.withPal p).cp = s.cp := rfl
@[simp] theorem State.withPal_cur (s : State) (p : Palette) : (s.withPal p).cur = s.cur := rfl
@[simp] theorem State.withPal_status (s : State) (p : Palette) : (s.withPal p).status = s.status := rfl
@[simp] theorem State.withPal_cfg (s : State) (p : Palette) : (s.withPal p).cfg = s.cfg := rfl
@[simp] theorem State.withPal_crcr (s : State) (p : Palette) : (s.withPal p).crcr = s.crcr := rfl
@[simp] theorem State.withPal_olen (s : State) (p : Palette) : (s.withPal p).olen = s.olen := rfl
@[simp] theorem State.withPal_err (s : State) (p : Palette) : (s.withPal p).err = s.err := rfl
@[simp] theorem State.withPal_pal (s : State) (p : Palette) : (s.withPal p).pal = p := rfl
@[simp] theorem State.withPal_comp (s : State) (p : Palette) : (s.withPal p).comp = s.comp := rfl
@[simp] theorem State.withPal_freeDraws (s : State) (p : Palette) : (s.withPal p).freeDraws = s.freeDraws := rfl

@[simp] theorem State.withComp_config (s : State) (c : Compositor) : (s.withComp c).config = s.config := rfl
@[simp] theorem State.withComp_mem (s : State) (c : Compositor) : (s.withComp c).mem = s.mem := rfl
@[simp] theorem State.withComp_x (s : State) (c : Compositor) : (s.withComp c).x = s.x := rfl
@[simp] theorem State.withComp_cp (s : State) (c : Compositor) : (s.withComp c).cp = s.cp := rfl
@[simp] theorem State.withComp_cur (s : State) (c : Compositor) : (s.withComp c).cur = s.cur := rfl
@[simp] theorem State.withComp_status (s : State) (c : Compositor) : (s.withComp c).status = s.status := rfl
@[simp] theorem State.withComp_cfg (s : State) (c : Compositor) : (s.withComp c).cfg = s.cfg := rfl
@[simp] theorem State.withComp_crcr (s : State) (c : Compositor) : (s.withComp c).crcr = s.crcr := rfl
@[simp] theorem State.withComp_olen (s : State) (c : Compositor) : (s.withComp c).olen = s.olen := rfl
@[simp] theorem State.withComp_err (s : State) (c : Compositor) : (s.withComp c).err = s.err := rfl
@[simp] theorem State.withComp_pal (s : State) (c : Compositor) : (s.withComp c).pal = s.pal := rfl
@[simp] theorem State.withComp_comp (s : State) (c : Compositor) : (s.withComp c).comp = c := rfl
@[simp] theorem State.withComp_freeDraws (s : State) (c : Compositor) : (s.withComp c).freeDraws = s.freeDraws := rfl

@[simp] theorem State.withStatus_config (s : State) (r : RunState) : (s.withStatus r).config = s.config := rfl
@[simp] theorem State.withStatus_mem (s : State) (r : RunState) : (s.withStatus r).mem = s.mem := rfl
@[simp] theorem State.withStatus_x (s : State) (r : RunState) : (s.withStatus r).x = s.x := rfl
@[simp] theorem State.withStatus_cp (s : State) (r : RunState) : (s.withStatus r).cp = s.cp := rfl
@[simp] theorem State.withStatus_cur (s : State) (r : RunState) : (s.withStatus r).cur = s.cur := rfl
@[simp] theorem State.withStatus_status (s : State) (r : RunState) : (s.withStatus r).status = r := rfl
@[simp] theorem State.withStatus_cfg (s : State) (r : RunState) : (s.withStatus r).cfg = s.cfg := rfl
@[simp] theorem State.withStatus_crcr (s : State) (r : RunState) : (s.withStatus r).crcr = s.crcr := rfl
@[simp] theorem State.withStatus_olen (s : State) (r : RunState) : (s.withStatus r).olen = s.olen := rfl
@[simp] theorem State.withStatus_err (s : State) (r : RunState) : (s.withStatus r).err = s.err := rfl
@[simp] theorem State.withStatus_pal (s : State) (r : RunState) : (s.withStatus r).pal = s.pal := rfl
@[simp] theorem State.withStatus_comp (s : State) (r : RunState) : (s.withStatus r).comp = s.comp := rfl
@[simp] theorem State.withStatus_freeDraws (s : State) (r : RunState) : (s.withStatus r).freeDraws = s.freeDraws := rfl

@[simp] theorem State.withLatches_config (s : State) (x : Descriptor) : (s.withLatches x).config = s.config := rfl
@[simp] theorem State.withLatches_mem (s : State) (x : Descriptor) : (s.withLatches x).mem = s.mem := rfl
@[simp] theorem State.withLatches_x (s : State) (x : Descriptor) : (s.withLatches x).x = x := rfl
@[simp] theorem State.withLatches_cp (s : State) (x : Descriptor) : (s.withLatches x).cp = s.cp := rfl
@[simp] theorem State.withLatches_cur (s : State) (x : Descriptor) : (s.withLatches x).cur = s.cur := rfl
@[simp] theorem State.withLatches_status (s : State) (x : Descriptor) : (s.withLatches x).status = s.status := rfl
@[simp] theorem State.withLatches_cfg (s : State) (x : Descriptor) : (s.withLatches x).cfg = s.cfg := rfl
@[simp] theorem State.withLatches_crcr (s : State) (x : Descriptor) : (s.withLatches x).crcr = s.crcr := rfl
@[simp] theorem State.withLatches_olen (s : State) (x : Descriptor) : (s.withLatches x).olen = s.olen := rfl
@[simp] theorem State.withLatches_err (s : State) (x : Descriptor) : (s.withLatches x).err = s.err := rfl
@[simp] theorem State.withLatches_pal (s : State) (x : Descriptor) : (s.withLatches x).pal = s.pal := rfl
@[simp] theorem State.withLatches_comp (s : State) (x : Descriptor) : (s.withLatches x).comp = s.comp := rfl
@[simp] theorem State.withLatches_freeDraws (s : State) (x : Descriptor) : (s.withLatches x).freeDraws = s.freeDraws := rfl

@[simp] theorem State.advance_config (s : State) : (s.advance).config = s.config := rfl
@[simp] theorem State.advance_mem (s : State) : (s.advance).mem = s.mem := rfl
@[simp] theorem State.advance_x (s : State) : (s.advance).x = s.x := rfl
@[simp] theorem State.advance_cp (s : State) : (s.advance).cp = s.cp + 32 := rfl
@[simp] theorem State.advance_cur (s : State) : (s.advance).cur = s.cur := rfl
@[simp] theorem State.advance_status (s : State) : (s.advance).status = s.status := rfl
@[simp] theorem State.advance_cfg (s : State) : (s.advance).cfg = s.cfg := rfl
@[simp] theorem State.advance_crcr (s : State) : (s.advance).crcr = s.crcr := rfl
@[simp] theorem State.advance_olen (s : State) : (s.advance).olen = s.olen := rfl
@[simp] theorem State.advance_err (s : State) : (s.advance).err = s.err := rfl
@[simp] theorem State.advance_pal (s : State) : (s.advance).pal = s.pal := rfl
@[simp] theorem State.advance_comp (s : State) : (s.advance).comp = s.comp := rfl
@[simp] theorem State.advance_freeDraws (s : State) : (s.advance).freeDraws = s.freeDraws := rfl

@[simp] theorem State.scribble_config (s : State) (a n : Nat) : (s.scribble a n).config = s.config := rfl
@[simp] theorem State.scribble_mem (s : State) (a n : Nat) : (s.scribble a n).mem = s.mem.write a ((List.range n).map fun i => Config.freeByte s.freeDraws (a + i)) := rfl
@[simp] theorem State.scribble_x (s : State) (a n : Nat) : (s.scribble a n).x = s.x := rfl
@[simp] theorem State.scribble_cp (s : State) (a n : Nat) : (s.scribble a n).cp = s.cp := rfl
@[simp] theorem State.scribble_cur (s : State) (a n : Nat) : (s.scribble a n).cur = s.cur := rfl
@[simp] theorem State.scribble_status (s : State) (a n : Nat) : (s.scribble a n).status = s.status := rfl
@[simp] theorem State.scribble_cfg (s : State) (a n : Nat) : (s.scribble a n).cfg = s.cfg := rfl
@[simp] theorem State.scribble_crcr (s : State) (a n : Nat) : (s.scribble a n).crcr = s.crcr := rfl
@[simp] theorem State.scribble_olen (s : State) (a n : Nat) : (s.scribble a n).olen = s.olen := rfl
@[simp] theorem State.scribble_err (s : State) (a n : Nat) : (s.scribble a n).err = s.err := rfl
@[simp] theorem State.scribble_pal (s : State) (a n : Nat) : (s.scribble a n).pal = s.pal := rfl
@[simp] theorem State.scribble_comp (s : State) (a n : Nat) : (s.scribble a n).comp = s.comp := rfl
@[simp] theorem State.scribble_freeDraws (s : State) (a n : Nat) : (s.scribble a n).freeDraws = s.freeDraws + 1 := rfl

@[simp] theorem State.finish_config (s : State) (dst : Word) (bs : List Byte) (n : Nat) : (s.finish dst bs n).config = s.config := rfl
@[simp] theorem State.finish_mem (s : State) (dst : Word) (bs : List Byte) (n : Nat) : (s.finish dst bs n).mem = s.mem.write dst.toNat bs := rfl
@[simp] theorem State.finish_x (s : State) (dst : Word) (bs : List Byte) (n : Nat) : (s.finish dst bs n).x = s.x := rfl
@[simp] theorem State.finish_cp (s : State) (dst : Word) (bs : List Byte) (n : Nat) : (s.finish dst bs n).cp = s.cp + 32 := rfl
@[simp] theorem State.finish_cur (s : State) (dst : Word) (bs : List Byte) (n : Nat) : (s.finish dst bs n).cur = s.cur := rfl
@[simp] theorem State.finish_status (s : State) (dst : Word) (bs : List Byte) (n : Nat) : (s.finish dst bs n).status = s.status := rfl
@[simp] theorem State.finish_cfg (s : State) (dst : Word) (bs : List Byte) (n : Nat) : (s.finish dst bs n).cfg = s.cfg := rfl
@[simp] theorem State.finish_crcr (s : State) (dst : Word) (bs : List Byte) (n : Nat) : (s.finish dst bs n).crcr = s.crcr := rfl
@[simp] theorem State.finish_olen (s : State) (dst : Word) (bs : List Byte) (n : Nat) : (s.finish dst bs n).olen = BitVec.ofNat 32 n := rfl
@[simp] theorem State.finish_err (s : State) (dst : Word) (bs : List Byte) (n : Nat) : (s.finish dst bs n).err = s.err := rfl
@[simp] theorem State.finish_pal (s : State) (dst : Word) (bs : List Byte) (n : Nat) : (s.finish dst bs n).pal = s.pal := rfl
@[simp] theorem State.finish_comp (s : State) (dst : Word) (bs : List Byte) (n : Nat) : (s.finish dst bs n).comp = s.comp := rfl
@[simp] theorem State.finish_freeDraws (s : State) (dst : Word) (bs : List Byte) (n : Nat) : (s.finish dst bs n).freeDraws = s.freeDraws := rfl

@[simp] theorem State.raise_config (s : State) (f : Raise) : (s.raise f).config = s.config := rfl
@[simp] theorem State.raise_mem (s : State) (f : Raise) : (s.raise f).mem = s.mem := rfl
@[simp] theorem State.raise_x (s : State) (f : Raise) : (s.raise f).x = s.x := rfl
@[simp] theorem State.raise_cp (s : State) (f : Raise) : (s.raise f).cp = s.cp := rfl
@[simp] theorem State.raise_cur (s : State) (f : Raise) : (s.raise f).cur = s.cur := rfl
@[simp] theorem State.raise_status (s : State) (f : Raise) : (s.raise f).status = .err := rfl
@[simp] theorem State.raise_cfg (s : State) (f : Raise) : (s.raise f).cfg = s.cfg := rfl
@[simp] theorem State.raise_crcr (s : State) (f : Raise) : (s.raise f).crcr = s.crcr := rfl
@[simp] theorem State.raise_olen (s : State) (f : Raise) : (s.raise f).olen = s.olen := rfl
@[simp] theorem State.raise_err (s : State) (f : Raise) : (s.raise f).err = ⟨f.kind.code, s.cp, BitVec.ofNat 32 f.info0, BitVec.ofNat 32 f.info1, BitVec.ofNat 32 f.info2⟩ := rfl
@[simp] theorem State.raise_pal (s : State) (f : Raise) : (s.raise f).pal = s.pal := rfl
@[simp] theorem State.raise_comp (s : State) (f : Raise) : (s.raise f).comp = s.comp := rfl
@[simp] theorem State.raise_freeDraws (s : State) (f : Raise) : (s.raise f).freeDraws = s.freeDraws := rfl

@[simp] theorem State.fetched_config (s : State) : (s.fetched).config = s.config := rfl
@[simp] theorem State.fetched_mem (s : State) : (s.fetched).mem = s.mem := rfl
@[simp] theorem State.fetched_x (s : State) : (s.fetched).x = s.mem.descriptor s.cp.toNat := rfl
@[simp] theorem State.fetched_cp (s : State) : (s.fetched).cp = s.cp := rfl
@[simp] theorem State.fetched_cur (s : State) : (s.fetched).cur = s.cur := rfl
@[simp] theorem State.fetched_status (s : State) : (s.fetched).status = s.status := rfl
@[simp] theorem State.fetched_cfg (s : State) : (s.fetched).cfg = s.cfg := rfl
@[simp] theorem State.fetched_crcr (s : State) : (s.fetched).crcr = s.crcr := rfl
@[simp] theorem State.fetched_olen (s : State) : (s.fetched).olen = s.olen := rfl
@[simp] theorem State.fetched_err (s : State) : (s.fetched).err = s.err := rfl
@[simp] theorem State.fetched_pal (s : State) : (s.fetched).pal = s.pal := rfl
@[simp] theorem State.fetched_comp (s : State) : (s.fetched).comp = s.comp := rfl
@[simp] theorem State.fetched_freeDraws (s : State) : (s.fetched).freeDraws = s.freeDraws := rfl

@[simp] theorem State.resetRegs_config (s : State) : (s.resetRegs).config = s.config := rfl
@[simp] theorem State.resetRegs_mem (s : State) : (s.resetRegs).mem = s.mem := rfl
@[simp] theorem State.resetRegs_x (s : State) : (s.resetRegs).x = #v[0, 0, 0, 0, 0, 0, 0, 0] := rfl
@[simp] theorem State.resetRegs_cp (s : State) : (s.resetRegs).cp = 0 := rfl
@[simp] theorem State.resetRegs_cur (s : State) : (s.resetRegs).cur = 0 := rfl
@[simp] theorem State.resetRegs_status (s : State) : (s.resetRegs).status = .idle := rfl
@[simp] theorem State.resetRegs_cfg (s : State) : (s.resetRegs).cfg = ⟨false, false⟩ := rfl
@[simp] theorem State.resetRegs_crcr (s : State) : (s.resetRegs).crcr = 0 := rfl
@[simp] theorem State.resetRegs_olen (s : State) : (s.resetRegs).olen = 0 := rfl
@[simp] theorem State.resetRegs_err (s : State) : (s.resetRegs).err = .zero := rfl
@[simp] theorem State.resetRegs_pal (s : State) : (s.resetRegs).pal = ⟨0, 0, lutOf (freeEntry s.freeDraws)⟩ := rfl
@[simp] theorem State.resetRegs_comp (s : State) : (s.resetRegs).comp = .zero := rfl
@[simp] theorem State.resetRegs_freeDraws (s : State) : (s.resetRegs).freeDraws = s.freeDraws + 1 := rfl

@[simp] theorem State.resetWith_config (p : Config.Params) : (State.resetWith p).config = p := rfl
@[simp] theorem State.resetWith_mem (p : Config.Params) : (State.resetWith p).mem = [] := rfl
@[simp] theorem State.resetWith_x (p : Config.Params) : (State.resetWith p).x = #v[0, 0, 0, 0, 0, 0, 0, 0] := rfl
@[simp] theorem State.resetWith_cp (p : Config.Params) : (State.resetWith p).cp = 0 := rfl
@[simp] theorem State.resetWith_cur (p : Config.Params) : (State.resetWith p).cur = 0 := rfl
@[simp] theorem State.resetWith_status (p : Config.Params) : (State.resetWith p).status = .idle := rfl
@[simp] theorem State.resetWith_cfg (p : Config.Params) : (State.resetWith p).cfg = ⟨false, false⟩ := rfl
@[simp] theorem State.resetWith_crcr (p : Config.Params) : (State.resetWith p).crcr = 0 := rfl
@[simp] theorem State.resetWith_olen (p : Config.Params) : (State.resetWith p).olen = 0 := rfl
@[simp] theorem State.resetWith_err (p : Config.Params) : (State.resetWith p).err = .zero := rfl
@[simp] theorem State.resetWith_pal (p : Config.Params) : (State.resetWith p).pal = .zero := rfl
@[simp] theorem State.resetWith_comp (p : Config.Params) : (State.resetWith p).comp = .zero := rfl
@[simp] theorem State.resetWith_freeDraws (p : Config.Params) : (State.resetWith p).freeDraws = 0 := rfl

end Sys2Proof.Machine
end

