-- ==== Sys2Proof/Laws/Ops.lean ====
section
/-!
SUPPORT. What the shared updates of the state do to memory, to the palette and to the invariants, said once.
-/

namespace Sys2Proof.Machine

@[simp] theorem length_zeros (n : Nat) : (zeros n).length = n := by simp [zeros]

theorem length_slice (s : List Byte) (i n : Nat) (h : i + n ≤ s.length) : (slice s i n).length = n := by
  simp only [slice, List.length_take, List.length_drop]; omega

theorem getD_slice (s : List Byte) (i n j : Nat) (h : j < n) : (slice s i n).getD j 0 = s.getD (i + j) 0 := by
  simp [slice, List.getD_eq_getElem?_getD, h]

theorem length_putAt (s bs : List Byte) (i : Nat) (h : i + bs.length ≤ s.length) : (putAt s i bs).length = s.length := by
  simp only [putAt, List.length_append, List.length_take, List.length_drop]; omega

/-- What an unspecified draw does to every byte: those inside the range are free values, the others stay. -/
theorem State.byte_scribble (s : State) (a n b : Nat) :
    (s.scribble a n).mem.byte b = if a ≤ b ∧ b < a + n then Config.freeByte s.freeDraws b else s.mem.byte b := by
  rw [State.scribble_mem, Memory.byte_write]
  simp only [List.length_map, List.length_range]
  split
  · rename_i h
    have hl : b - a < n := by omega
    have he : a + (b - a) = b := by omega
    simp [List.getD_eq_getElem?_getD, hl, he]
  · rfl

theorem State.scribble_wf {s : State} (h : s.mem.wf) (a n : Nat) : (s.scribble a n).mem.wf := by
  rw [State.scribble_mem]; exact Memory.write_wf h _ _

theorem State.scribble_inside {s : State} {size : Nat} (h : ∀ c ∈ s.mem, c.1 < size) {a n : Nat} (hr : n = 0 ∨ a + n ≤ size) :
    ∀ c ∈ (s.scribble a n).mem, c.1 < size := by
  rw [State.scribble_mem]
  exact Memory.write_inside h _ _ (by simpa using hr)

/-- What the end of a data command does to every byte. -/
theorem State.byte_finish (s : State) (dst : Word) (bs : List Byte) (n b : Nat) :
    (s.finish dst bs n).mem.byte b =
      if dst.toNat ≤ b ∧ b < dst.toNat + bs.length then bs.getD (b - dst.toNat) 0 else s.mem.byte b := by
  rw [State.finish_mem, Memory.byte_write]

theorem State.finish_wf {s : State} (h : s.mem.wf) (dst : Word) (bs : List Byte) (n : Nat) :
    (s.finish dst bs n).mem.wf := by
  rw [State.finish_mem]; exact Memory.write_wf h _ _

/-- The entries of a table built from a function. -/
theorem lutOf_getD (f : Nat → LutEntry) {i : Nat} (h : i < 256) : (lutOf f).toList.getD i ⟨0, 0, 0, 0⟩ = f i := by
  simp [lutOf, List.getD_eq_getElem?_getD, h]

theorem EngineFault.code_bounds (k : EngineFault) : 1 ≤ k.code.toNat ∧ k.code.toNat ≤ 19 := by
  cases k <;> decide

/-- R281: two different faults have different codes. -/
theorem EngineFault.code_injective {k l : EngineFault} (h : k.code = l.code) : k = l := by
  revert h; cases k <;> cases l <;> decide

end Sys2Proof.Machine
end

