-- ==== Sys2Proof/Laws/Exec.lean ====
section
/-!
SUPPORT. What each command can answer, said once: a command ends in fault entry or in its effect, never in a stop, and a data
command whose check passes ends in `finish` or, on bad data, in fault entry after its destination became unspecified.
-/

namespace Sys2Proof.Machine

/-- What a command can answer: fault entry on the state as it was, or one of the effects `P`. -/
def Answers (o : Host.Outcome State Fault Refusal) (s : State) (check : Option Raise) (P : State → Prop) : Prop :=
  ∃ t, o = .next t ∧ ((∃ f, check = some f ∧ t = s.raise f) ∨ (check = none ∧ P t))

theorem execHalt_answers (s : State) : execHalt s = .next (s.withStatus .done) := rfl

theorem execNop_answers (s : State) : execNop s = .next s.advance := rfl

theorem execSetcur_answers (addr : Word) (s : State) : execSetcur addr s = .next (s.withCur addr).advance := rfl

theorem execCrc_answers (src len : Word) (s : State) :
    Answers (execCrc src len s) s (checkRanges s (crcRanges src len)) fun t =>
      t = (s.withCrcr (crc32 (s.mem.read src.toNat len.toNat))).advance := by
  unfold execCrc Answers
  cases checkRanges s (crcRanges src len) with
  | some f => exact ⟨_, rfl, .inl ⟨f, rfl, rfl⟩⟩
  | none => exact ⟨_, rfl, .inr ⟨rfl, rfl⟩⟩

/-- CRCCHK goes on to read exactly when the bytes it reads or skips lie in MEM. -/
theorem crcchkCheck_eq_none {crclen : Word} {s : State} :
    crcchkCheck crclen s = none ↔
      (s.cfg.crcen = true → crclen.toNat ≤ s.cur.toNat) ∧ s.cur.toNat + 4 ≤ s.config.memSize := by
  simp only [crcchkCheck, firstRaise_eq_none, List.forall_mem_cons, checkRanges_eq_none, crcchkRanges, checkCoveredStart]
  cases s.cfg.crcen
  · simp [readRange]
  · simp only [if_true, require_eq_none, decide_eq_true_eq, List.forall_mem_cons, readRange]
    simp
    omega

theorem execCrcchk_answers (crclen name : Word) (s : State) :
    Answers (execCrcchk crclen name s) s (crcchkCheck crclen s) fun t =>
      (s.cfg.crcen = false ∧ t = (s.withCur (s.cur + 4)).advance) ∨
      (s.cfg.crcen = true ∧ storedChecksum s = computedChecksum crclen s ∧
        t = ((s.withCrcr (computedChecksum crclen s)).withCur (s.cur + 4)).advance) ∨
      (s.cfg.crcen = true ∧ storedChecksum s ≠ computedChecksum crclen s ∧
        t = (s.withCrcr (computedChecksum crclen s)).raise
          (raiseCrcMismatch (storedChecksum s) (computedChecksum crclen s) name)) := by
  unfold execCrcchk Answers
  cases crcchkCheck crclen s with
  | some f => exact ⟨_, rfl, .inl ⟨f, rfl, rfl⟩⟩
  | none =>
    cases hc : s.cfg.crcen with
    | false => exact ⟨_, rfl, .inr ⟨rfl, .inl ⟨rfl, rfl⟩⟩⟩
    | true =>
      by_cases he : storedChecksum s = computedChecksum crclen s
      · exact ⟨((s.withCrcr (computedChecksum crclen s)).withCur (s.cur + 4)).advance, by simp [he],
          .inr ⟨rfl, .inr (.inl ⟨rfl, he, rfl⟩)⟩⟩
      · exact ⟨(s.withCrcr (computedChecksum crclen s)).raise
            (raiseCrcMismatch (storedChecksum s) (computedChecksum crclen s) name), by simp [he],
          .inr ⟨rfl, .inr (.inr ⟨rfl, he, rfl⟩)⟩⟩

theorem execUnpack_answers (d : Byte) (src spr rows dst : Word) (s : State) :
    Answers (execUnpack d src spr rows dst s) s (unpackCheck d src spr rows dst s) fun t =>
      t = s.finish dst
        (unpackRows (s.mem.read src.toNat (rows.toNat * packedBytes spr.toNat d.toNat)) d.toNat spr.toNat rows.toNat)
        (rows.toNat * spr.toNat) := by
  unfold execUnpack Answers
  cases unpackCheck d src spr rows dst s with
  | some f => exact ⟨_, rfl, .inl ⟨f, rfl, rfl⟩⟩
  | none => exact ⟨_, rfl, .inr ⟨rfl, rfl⟩⟩

/-- What a command with data-dependent faults answers once its checks pass. -/
def DataAnswer (s : State) (dst : Word) (n : Nat) (r : Except Raise (List Byte)) (t : State) : Prop :=
  (∃ f, r = .error f ∧ t = (s.scribble dst.toNat n).raise f) ∨ (∃ bs, r = .ok bs ∧ t = s.finish dst bs n)

theorem execPack_answers (d : Byte) (src spr rows dst : Word) (s : State) :
    Answers (execPack d src spr rows dst s) s (packCheck d src spr rows dst s)
      (DataAnswer s dst (rows.toNat * packedBytes spr.toNat d.toNat)
        (packRows (s.mem.read src.toNat (rows.toNat * spr.toNat)) d.toNat spr.toNat rows.toNat)) := by
  unfold execPack Answers DataAnswer
  cases packCheck d src spr rows dst s with
  | some f => exact ⟨_, rfl, .inl ⟨f, rfl, rfl⟩⟩
  | none =>
    cases packRows (s.mem.read src.toNat (rows.toNat * spr.toNat)) d.toNat spr.toNat rows.toNat with
    | error f => exact ⟨_, rfl, .inr ⟨rfl, .inl ⟨f, rfl, rfl⟩⟩⟩
    | ok bs => exact ⟨_, rfl, .inr ⟨rfl, .inr ⟨bs, rfl, rfl⟩⟩⟩

/-- The destination bytes of UNFILT, or its data-dependent fault. -/
def unfiltResult (bpp : Byte) (src rb rows : Word) (s : State) : Except Raise (List Byte) :=
  (unfilterPass (s.mem.read src.toNat (rows.toNat * (rb.toNat + 1))) rb.toNat rows.toNat bpp.toNat).map List.flatten

theorem execUnfilt_answers (bpp : Byte) (src rb rows dst : Word) (s : State) :
    Answers (execUnfilt bpp src rb rows dst s) s (unfiltCheck bpp src rb rows dst s)
      (DataAnswer s dst (rows.toNat * rb.toNat) (unfiltResult bpp src rb rows s)) := by
  unfold execUnfilt Answers DataAnswer unfiltResult
  cases unfiltCheck bpp src rb rows dst s with
  | some f => exact ⟨_, rfl, .inl ⟨f, rfl, rfl⟩⟩
  | none =>
    cases unfilterPass (s.mem.read src.toNat (rows.toNat * (rb.toNat + 1))) rb.toNat rows.toNat bpp.toNat with
    | error f => exact ⟨_, rfl, .inr ⟨rfl, .inl ⟨f, rfl, rfl⟩⟩⟩
    | ok lines => exact ⟨_, rfl, .inr ⟨rfl, .inr ⟨lines.flatten, rfl, rfl⟩⟩⟩

theorem execFilt_answers (bpp kind : Byte) (src rb rows dst : Word) (s : State) :
    Answers (execFilt bpp kind src rb rows dst s) s (filtCheck bpp kind src rb rows dst s) fun t =>
      t = s.finish dst
        (filterPass (filtKind kind) (rowsOf (s.mem.read src.toNat (rows.toNat * rb.toNat)) rb.toNat rows.toNat) rb.toNat bpp.toNat)
        (rows.toNat * (rb.toNat + 1)) := by
  unfold execFilt Answers
  cases filtCheck bpp kind src rb rows dst s with
  | some f => exact ⟨_, rfl, .inl ⟨f, rfl, rfl⟩⟩
  | none => exact ⟨_, rfl, .inr ⟨rfl, rfl⟩⟩

theorem execDeint_answers (depth channels il : Byte) (src width height dst : Word) (s : State) :
    Answers (execDeint depth channels il src width height dst s) s (deintCheck depth channels il src width height dst s)
      (DataAnswer s dst (rasterBytes depth.toNat channels.toNat width.toNat height.toNat)
        (reassemble depth.toNat channels.toNat il.toNat
          (s.mem.read src.toNat (streamLen depth.toNat channels.toNat il.toNat width.toNat height.toNat))
          width.toNat height.toNat)) := by
  unfold execDeint Answers DataAnswer
  cases deintCheck depth channels il src width height dst s with
  | some f => exact ⟨_, rfl, .inl ⟨f, rfl, rfl⟩⟩
  | none =>
    dsimp only
    cases reassemble depth.toNat channels.toNat il.toNat
        (s.mem.read src.toNat (streamLen depth.toNat channels.toNat il.toNat width.toNat height.toNat))
        width.toNat height.toNat with
    | error f => exact ⟨_, rfl, .inr ⟨rfl, .inl ⟨f, rfl, rfl⟩⟩⟩
    | ok bs => exact ⟨_, rfl, .inr ⟨rfl, .inr ⟨bs, rfl, rfl⟩⟩⟩

theorem execIntl_answers (depth channels il : Byte) (src width height dst srclen : Word) (s : State) :
    Answers (execIntl depth channels il src width height dst srclen s) s
      (intlCheck depth channels il src width height dst srclen s)
      (DataAnswer s dst (streamLen depth.toNat channels.toNat il.toNat width.toNat height.toNat)
        (decompose depth.toNat channels.toNat il.toNat
          (s.mem.read src.toNat (rasterBytes depth.toNat channels.toNat width.toNat height.toNat))
          width.toNat height.toNat)) := by
  unfold execIntl Answers DataAnswer
  cases intlCheck depth channels il src width height dst srclen s with
  | some f => exact ⟨_, rfl, .inl ⟨f, rfl, rfl⟩⟩
  | none =>
    dsimp only
    cases decompose depth.toNat channels.toNat il.toNat
        (s.mem.read src.toNat (rasterBytes depth.toNat channels.toNat width.toNat height.toNat))
        width.toNat height.toNat with
    | error f => exact ⟨_, rfl, .inr ⟨rfl, .inl ⟨f, rfl, rfl⟩⟩⟩
    | ok bs => exact ⟨_, rfl, .inr ⟨rfl, .inr ⟨bs, rfl, rfl⟩⟩⟩

theorem execSwap16_answers (src n dst : Word) (s : State) :
    Answers (execSwap16 src n dst s) s (swap16Check src n dst s) fun t =>
      t = s.finish dst (swapSamples s.cfg.hle (s.mem.read src.toNat (2 * n.toNat))) (2 * n.toNat) := by
  unfold execSwap16 Answers
  cases swap16Check src n dst s with
  | some f => exact ⟨_, rfl, .inl ⟨f, rfl, rfl⟩⟩
  | none => exact ⟨_, rfl, .inr ⟨rfl, rfl⟩⟩

theorem execPalld_answers (src bytelen : Word) (s : State) :
    Answers (execPalld src bytelen s) s (palldCheck src bytelen s) fun t =>
      t = { s.withPal (loadedPalette s.mem src.toNat (bytelen.toNat / 3) s.freeDraws) with
            freeDraws := s.freeDraws + 1 }.advance := by
  unfold execPalld Answers
  cases palldCheck src bytelen s with
  | some f => exact ⟨_, rfl, .inl ⟨f, rfl, rfl⟩⟩
  | none => exact ⟨_, rfl, .inr ⟨rfl, rfl⟩⟩

theorem execPaltr_answers (src m : Word) (s : State) :
    Answers (execPaltr src m s) s (paltrCheck src m s) fun t =>
      t = (s.withPal (withAlphas s.pal s.mem src.toNat m.toNat)).advance := by
  unfold execPaltr Answers
  cases paltrCheck src m s with
  | some f => exact ⟨_, rfl, .inl ⟨f, rfl, rfl⟩⟩
  | none => exact ⟨_, rfl, .inr ⟨rfl, rfl⟩⟩

theorem execPalx_answers (depth : Byte) (src width height dst srclen : Word) (s : State) :
    Answers (execPalx depth src width height dst srclen s) s (palxCheck depth src width height dst srclen s)
      (DataAnswer s dst (width.toNat * height.toNat * s.pal.palc.toNat)
        (expand s.pal depth.toNat (s.mem.read src.toNat srclen.toNat) width.toNat height.toNat)) := by
  unfold execPalx Answers DataAnswer
  cases palxCheck depth src width height dst srclen s with
  | some f => exact ⟨_, rfl, .inl ⟨f, rfl, rfl⟩⟩
  | none =>
    dsimp only
    cases expand s.pal depth.toNat (s.mem.read src.toNat srclen.toNat) width.toNat height.toNat with
    | error f => exact ⟨_, rfl, .inr ⟨rfl, .inl ⟨f, rfl, rfl⟩⟩⟩
    | ok bs => exact ⟨_, rfl, .inr ⟨rfl, .inr ⟨bs, rfl, rfl⟩⟩⟩

theorem execAcfg_answers (channels ss : Byte) (canvas width height snap : Word) (s : State) :
    Answers (execAcfg channels ss canvas width height snap s) s (acfgCheck channels ss width height) fun t =>
      t = (s.withComp (configured channels ss canvas width height snap)).advance := by
  unfold execAcfg Answers
  cases acfgCheck channels ss width height with
  | some f => exact ⟨_, rfl, .inl ⟨f, rfl, rfl⟩⟩
  | none => exact ⟨_, rfl, .inr ⟨rfl, rfl⟩⟩

theorem execCompose_answers (dispose blend : Byte) (src fw fh out x y : Word) (s : State) :
    Answers (execCompose dispose blend src fw fh out x y s) s (composeCheck dispose blend src fw fh out x y s) fun t =>
      t = (((s.withMem (composeMemory s.config.overFn s.cfg.hle s.comp src.toNat out.toNat
            (effectiveRect s.comp blend fw fh x y) s.mem)).withComp
          (recordFrame s.comp dispose (effectiveRect s.comp blend fw fh x y))).withOlen s.comp.cb).advance := by
  unfold execCompose Answers
  cases composeCheck dispose blend src fw fh out x y s with
  | some f => exact ⟨_, rfl, .inl ⟨f, rfl, rfl⟩⟩
  | none => exact ⟨_, rfl, .inr ⟨rfl, rfl⟩⟩

end Sys2Proof.Machine
end

