-- ==== Sys2Proof/Laws/PerInstr.lean ====
section
/-!
SUPPORT. Facts stated of every command, one lemma per constructor.

Family `OpcodeByte` (30_encoding.md rules R91 and R94): the most significant byte of a command's first word is its opcode
number in the map, and every field the map marks 0 is zero in its encoding.
-/

namespace Sys2Proof.Laws.OpcodeByte

/-- The encoding of `i` carries its own opcode and leaves every reserved field zero. -/
def Statement (i : Instr) : Prop :=
  opField (encode i) = i.opcode.byte ∧ ∀ sl ∈ slotOrder, sl ∉ i.opcode.used → sl.value (encode i) = 0

theorem halt : Statement .halt := by
  refine ⟨wordByte_be32_0 _ _ _ _, ?_⟩
  simp [slotOrder, Instr.opcode, Opcode.used, Slot.value, encode, commandWord, f1Field, f2Field, f3Field]

theorem nop : Statement .nop := by
  refine ⟨wordByte_be32_0 _ _ _ _, ?_⟩
  simp [slotOrder, Instr.opcode, Opcode.used, Slot.value, encode, commandWord, f1Field, f2Field, f3Field]

theorem setcur (addr : Word) : Statement (.setcur addr) := by
  refine ⟨wordByte_be32_0 _ _ _ _, ?_⟩
  simp [slotOrder, Instr.opcode, Opcode.used, Slot.value, encode, commandWord, f1Field, f2Field, f3Field]

theorem crc (src len : Word) : Statement (.crc src len) := by
  refine ⟨wordByte_be32_0 _ _ _ _, ?_⟩
  simp [slotOrder, Instr.opcode, Opcode.used, Slot.value, encode, commandWord, f1Field, f2Field, f3Field]

theorem crcchk (crclen name : Word) : Statement (.crcchk crclen name) := by
  refine ⟨wordByte_be32_0 _ _ _ _, ?_⟩
  simp [slotOrder, Instr.opcode, Opcode.used, Slot.value, encode, commandWord, f1Field, f2Field, f3Field]

theorem unpack (d : Byte) (src spr rows dst : Word) : Statement (.unpack d src spr rows dst) := by
  refine ⟨wordByte_be32_0 _ _ _ _, ?_⟩
  simp [slotOrder, Instr.opcode, Opcode.used, Slot.value, encode, commandWord, f1Field, f2Field, f3Field]

theorem pack (d : Byte) (src spr rows dst : Word) : Statement (.pack d src spr rows dst) := by
  refine ⟨wordByte_be32_0 _ _ _ _, ?_⟩
  simp [slotOrder, Instr.opcode, Opcode.used, Slot.value, encode, commandWord, f1Field, f2Field, f3Field]

theorem unfilt (bpp : Byte) (src rb rows dst : Word) : Statement (.unfilt bpp src rb rows dst) := by
  refine ⟨wordByte_be32_0 _ _ _ _, ?_⟩
  simp [slotOrder, Instr.opcode, Opcode.used, Slot.value, encode, commandWord, f1Field, f2Field, f3Field]

theorem filt (bpp kind : Byte) (src rb rows dst : Word) : Statement (.filt bpp kind src rb rows dst) := by
  refine ⟨wordByte_be32_0 _ _ _ _, ?_⟩
  simp [slotOrder, Instr.opcode, Opcode.used, Slot.value, encode, commandWord, f1Field, f2Field, f3Field]

theorem deint (depth channels il : Byte) (src width height dst : Word) : Statement (.deint depth channels il src width height dst) := by
  refine ⟨wordByte_be32_0 _ _ _ _, ?_⟩
  simp [slotOrder, Instr.opcode, Opcode.used, Slot.value, encode, commandWord, f1Field, f2Field, f3Field]

theorem intl (depth channels il : Byte) (src width height dst srclen : Word) : Statement (.intl depth channels il src width height dst srclen) := by
  refine ⟨wordByte_be32_0 _ _ _ _, ?_⟩
  simp [slotOrder, Instr.opcode, Opcode.used, Slot.value, encode, commandWord, f1Field, f2Field, f3Field]

theorem swap16 (src n dst : Word) : Statement (.swap16 src n dst) := by
  refine ⟨wordByte_be32_0 _ _ _ _, ?_⟩
  simp [slotOrder, Instr.opcode, Opcode.used, Slot.value, encode, commandWord, f1Field, f2Field, f3Field]

theorem palld (src bytelen : Word) : Statement (.palld src bytelen) := by
  refine ⟨wordByte_be32_0 _ _ _ _, ?_⟩
  simp [slotOrder, Instr.opcode, Opcode.used, Slot.value, encode, commandWord, f1Field, f2Field, f3Field]

theorem paltr (src m : Word) : Statement (.paltr src m) := by
  refine ⟨wordByte_be32_0 _ _ _ _, ?_⟩
  simp [slotOrder, Instr.opcode, Opcode.used, Slot.value, encode, commandWord, f1Field, f2Field, f3Field]

theorem palx (depth : Byte) (src width height dst srclen : Word) : Statement (.palx depth src width height dst srclen) := by
  refine ⟨wordByte_be32_0 _ _ _ _, ?_⟩
  simp [slotOrder, Instr.opcode, Opcode.used, Slot.value, encode, commandWord, f1Field, f2Field, f3Field]

theorem acfg (channels ss : Byte) (canvas width height snap : Word) : Statement (.acfg channels ss canvas width height snap) := by
  refine ⟨wordByte_be32_0 _ _ _ _, ?_⟩
  simp [slotOrder, Instr.opcode, Opcode.used, Slot.value, encode, commandWord, f1Field, f2Field, f3Field]

theorem compose (dispose blend : Byte) (src fw fh out x y : Word) : Statement (.compose dispose blend src fw fh out x y) := by
  refine ⟨wordByte_be32_0 _ _ _ _, ?_⟩
  simp [slotOrder, Instr.opcode, Opcode.used, Slot.value, encode, commandWord, f1Field, f2Field, f3Field]

end Sys2Proof.Laws.OpcodeByte
end

