-- ==== Sys2Proof/Laws/Results.lean ====
section
/-!
SUPPORT. How many bytes each unit's result has: a data command writes exactly the destination range of its rule.
-/

namespace Sys2Proof.Machine

theorem length_flatMap_const {α : Type} (f : α → List Byte) (k : Nat) (l : List α) (h : ∀ a ∈ l, (f a).length = k) :
    (l.flatMap f).length = l.length * k := by
  induction l with
  | nil => simp
  | cons a l ih =>
    rw [List.flatMap_cons, List.length_append, h a (by simp), ih fun b hb => h b (by simp [hb]), List.length_cons]
    ring

@[simp] theorem length_read (m : Memory) (a n : Nat) : (m.read a n).length = n := by simp [Memory.read]

/-! ### Bit-depth unit -/

@[simp] theorem length_unpackRow (p : List Byte) (d spr : Nat) : (unpackRow p d spr).length = spr := by simp [unpackRow]

@[simp] theorem length_packLane (s : List Byte) (d : Nat) (out : List Byte) (i : Nat) :
    (packLane s d out i).length = out.length := by simp [packLane]

theorem length_foldl_packLane (s : List Byte) (d : Nat) (is : List Nat) (out : List Byte) :
    (is.foldl (packLane s d) out).length = out.length := by
  induction is generalizing out with
  | nil => rfl
  | cons i is ih => rw [List.foldl_cons, ih, length_packLane]

@[simp] theorem length_packRow (s : List Byte) (d spr : Nat) : (packRow s d spr).length = packedBytes spr d := by
  rw [packRow, length_foldl_packLane, length_zeros]

/-- R142: UNPACK's result fills its destination range. -/
theorem length_unpackRows (src : List Byte) (d spr rows : Nat) : (unpackRows src d spr rows).length = rows * spr := by
  unfold unpackRows
  split
  · rename_i h; simp [h]
  · rw [length_flatMap_const _ spr _ fun _ _ => length_unpackRow _ _ _, List.length_range]

theorem packedBytes_zero (d : Nat) : packedBytes 0 d = 0 := by simp [packedBytes, divCeil]

/-- R143: PACK's result fills its destination range. -/
theorem length_packRows {src : List Byte} {d spr rows : Nat} {bs : List Byte} (h : packRows src d spr rows = .ok bs) :
    bs.length = rows * packedBytes spr d := by
  unfold packRows at h
  split at h
  · cases h
  · cases h
    split
    · rename_i h0; simp [h0, packedBytes_zero]
    · rw [length_flatMap_const _ (packedBytes spr d) _ fun _ _ => length_packRow _ _ _, List.length_range]

/-- PACK's only data-dependent fault is SAMPLE_RANGE. -/
theorem packRows_error {src : List Byte} {d spr rows : Nat} {f : Raise} (h : packRows src d spr rows = .error f) :
    f.kind = .sampleRange := by
  unfold packRows at h
  split at h
  · cases h; rfl
  · cases h

/-! ### Scanline filter unit -/

theorem length_unfilterFrom (k : FilterKind) (prev : List Byte) (bpp : Nat) (cur f : List Byte) :
    (unfilterFrom k prev bpp cur f).length = cur.length + f.length := by
  induction f generalizing cur with
  | nil => rfl
  | cons b f ih => rw [unfilterFrom, ih]; simp; omega

@[simp] theorem length_unfilterLine (k : FilterKind) (f prev : List Byte) (bpp : Nat) :
    (unfilterLine k f prev bpp).length = f.length := by
  rw [unfilterLine, length_unfilterFrom]; simp

@[simp] theorem length_filterLine (k : FilterKind) (o prev : List Byte) (bpp : Nat) :
    (filterLine k o prev bpp).length = o.length := by simp [filterLine]

/-- R166: a pass of `n` rows gives `n` lines of `rb` bytes. -/
theorem unfilterRows_lines {rb bpp r n : Nat} {s prev : List Byte} {lines : List (List Byte)}
    (hs : n * (rb + 1) ≤ s.length) (h : unfilterRows rb bpp r n s prev = .ok lines) :
    lines.length = n ∧ ∀ l ∈ lines, l.length = rb := by
  induction n generalizing r s prev lines with
  | zero => cases h; simp
  | succ n ih =>
    rw [unfilterRows] at h
    have hs' : n * (rb + 1) + (rb + 1) ≤ s.length := by rw [← Nat.succ_mul]; exact hs
    dsimp only at h
    split at h
    · cases h
    · rename_i k _
      split at h
      · cases h
      · rename_i ls hls
        cases h
        obtain ⟨h1, h2⟩ := ih (by rw [List.length_drop]; omega) hls
        refine ⟨by simp [h1], fun l hl => ?_⟩
        rcases List.mem_cons.1 hl with rfl | hl
        · rw [length_unfilterLine, length_slice]; omega
        · exact h2 l hl

theorem unfilterPass_lines {s : List Byte} {rb rows bpp : Nat} {lines : List (List Byte)}
    (hs : rows * (rb + 1) ≤ s.length) (h : unfilterPass s rb rows bpp = .ok lines) :
    lines.length = rows ∧ ∀ l ∈ lines, l.length = rb := unfilterRows_lines hs h

theorem length_flatten_const {lines : List (List Byte)} {k : Nat} (h : ∀ l ∈ lines, l.length = k) :
    lines.flatten.length = lines.length * k := by
  induction lines with
  | nil => simp
  | cons l ls ih =>
    rw [List.flatten_cons, List.length_append, h l (by simp), ih fun m hm => h m (by simp [hm]), List.length_cons]; ring

theorem unfilterRows_error {rb bpp r n : Nat} {s prev : List Byte} {f : Raise}
    (h : unfilterRows rb bpp r n s prev = .error f) : f.kind = .badFilter := by
  induction n generalizing r s prev with
  | zero => cases h
  | succ n ih =>
    rw [unfilterRows] at h
    dsimp only at h
    split at h
    · cases h; rfl
    · split at h
      · rename_i g hg; cases h; exact ih hg
      · cases h

/-- The only data-dependent fault of a pass is BAD_FILTER. -/
theorem unfilterPass_error {s : List Byte} {rb rows bpp : Nat} {f : Raise} (h : unfilterPass s rb rows bpp = .error f) :
    f.kind = .badFilter := unfilterRows_error h

theorem length_filterRows (k : FilterKind) (bpp rb : Nat) (lines : List (List Byte)) (prev : List Byte)
    (h : ∀ l ∈ lines, l.length = rb) : (filterRows k bpp lines prev).length = lines.length * (rb + 1) := by
  induction lines generalizing prev with
  | nil => simp [filterRows]
  | cons o ls ih =>
    rw [filterRows, List.cons_append, List.length_cons, List.length_append, length_filterLine,
      ih o fun m hm => h m (by simp [hm]), h o (by simp), List.length_cons]
    ring

theorem rowsOf_lines (s : List Byte) (rb rows : Nat) (h : rows * rb ≤ s.length) :
    (rowsOf s rb rows).length = rows ∧ ∀ l ∈ rowsOf s rb rows, l.length = rb := by
  refine ⟨by simp [rowsOf], fun l hl => ?_⟩
  obtain ⟨r, hr, rfl⟩ := List.mem_map.1 hl
  have hr : r + 1 ≤ rows := List.mem_range.1 hr
  have : (r + 1) * rb ≤ rows * rb := Nat.mul_le_mul_right rb hr
  rw [length_slice]; rw [Nat.succ_mul] at this; omega

/-- R175: FILT's result fills its destination range. -/
theorem length_filterPass (k : FilterKind) (s : List Byte) (rb rows bpp : Nat) (h : rows * rb ≤ s.length) :
    (filterPass k (rowsOf s rb rows) rb bpp).length = rows * (rb + 1) := by
  rw [filterPass, length_filterRows k bpp rb _ _ (rowsOf_lines s rb rows h).2, (rowsOf_lines s rb rows h).1]

/-! ### Interlace unit -/

@[simp] theorem length_swapSamples (hle : Bool) (s : List Byte) : (swapSamples hle s).length = s.length := by
  induction s using swapSamples.induct with
  | case1 b0 b1 bs ih => cases hle <;> simp [swapSamples, ih]
  | case2 bs h => rw [swapSamples]; exact h

/-- Rows that succeed give a stream whose length is the sum of theirs. -/
theorem length_joinRows {α : Type} {f : α → Except Raise (List Byte)} {n : α → Nat} {as : List α} {bs : List Byte}
    (hf : ∀ a ∈ as, ∀ cs, f a = .ok cs → cs.length = n a) (h : joinRows f as = .ok bs) : bs.length = (as.map n).sum := by
  induction as generalizing bs with
  | nil => cases h; rfl
  | cons a as ih =>
    rw [joinRows] at h
    split at h
    · cases h
    · rename_i cs hcs
      split at h
      · cases h
      · rename_i ds hds
        cases h
        rw [List.length_append, hf a (by simp) cs hcs, ih (fun b hb => hf b (by simp [hb])) hds]
        simp

theorem joinRows_error {α : Type} {f : α → Except Raise (List Byte)} {as : List α} {e : Raise}
    (h : joinRows f as = .error e) : ∃ a ∈ as, f a = .error e := by
  induction as with
  | nil => cases h
  | cons a as ih =>
    rw [joinRows] at h
    split at h
    · rename_i g hg; cases h; exact ⟨a, by simp, hg⟩
    · split at h
      · rename_i g hg
        cases h
        obtain ⟨b, hb, hfb⟩ := ih hg
        exact ⟨b, by simp [hb], hfb⟩
      · cases h

/-- INTL's only data-dependent fault is SAMPLE_RANGE. -/
theorem decompose_error {depth channels il w h : Nat} {raster : List Byte} {f : Raise}
    (hd : decompose depth channels il raster w h = .error f) : f.kind = .sampleRange := by
  obtain ⟨p, _, hp⟩ := joinRows_error hd
  obtain ⟨row, _, hr⟩ := joinRows_error hp
  unfold streamRow at hr
  dsimp only at hr
  split at hr
  · split at hr
    · cases hr; rfl
    · cases hr
  · cases hr

theorem reassemblePasses_error {depth channels w h : Nat} {ps : List Pass} {s raster : List Byte} {f : Raise}
    (hr : reassemblePasses depth channels w h ps s raster = .error f) : f.kind = .badFilter := by
  induction ps generalizing s raster with
  | nil => cases hr
  | cons p ps ih =>
    rw [reassemblePasses] at hr
    split at hr
    · rename_i g hg; cases hr; exact unfilterPass_error hg
    · exact ih hr

/-- DEINT's only data-dependent fault is BAD_FILTER. -/
theorem reassemble_error {depth channels il w h : Nat} {s : List Byte} {f : Raise}
    (hr : reassemble depth channels il s w h = .error f) : f.kind = .badFilter := reassemblePasses_error hr

/-! ### Palette unit -/

/-- R224: every pixel expands to PALC bytes. -/
theorem length_expandIndices {p : Palette} {pixel : Nat} {idx out : List Byte} (hc : p.palc.toNat ≤ 4)
    (h : expandIndices p pixel idx = .ok out) : out.length = idx.length * p.palc.toNat := by
  induction idx generalizing pixel out with
  | nil => cases h; simp
  | cons v idx ih =>
    rw [expandIndices] at h
    split at h
    · split at h
      · cases h
      · rename_i o ho
        cases h
        rw [List.length_append, ih ho, List.length_take, List.length_cons]
        simp only [LutEntry.bytes, List.length_cons, List.length_nil]
        rw [Nat.min_eq_left hc]; ring
    · cases h

theorem expandIndices_error {p : Palette} {pixel : Nat} {idx : List Byte} {f : Raise}
    (h : expandIndices p pixel idx = .error f) : f.kind = .palIndex := by
  induction idx generalizing pixel with
  | nil => cases h
  | cons v idx ih =>
    rw [expandIndices] at h
    split at h
    · split at h
      · rename_i g hg; cases h; exact ih hg
      · cases h
    · cases h; rfl

/-- PALX's only data-dependent fault is PAL_INDEX. -/
theorem expand_error {p : Palette} {depth : Nat} {src : List Byte} {w h : Nat} {f : Raise}
    (he : expand p depth src w h = .error f) : f.kind = .palIndex := expandIndices_error he

/-! ### Compositor -/

@[simp] theorem length_natBytes (n v : Nat) : (natBytes n v).length = n := by simp [natBytes]

@[simp] theorem length_nativeOrder (hle : Bool) (bs : List Byte) : (nativeOrder hle bs).length = bs.length := by
  cases hle <;> simp [nativeOrder]

@[simp] theorem length_sampleBytes (hle : Bool) (ss v : Nat) : (sampleBytes hle ss v).length = ss := by simp [sampleBytes]

/-- R245: "over" writes one whole pixel. -/
@[simp] theorem length_overPixel (inst : Config.OverInstance) (hle : Bool) (c : Compositor) (m : Memory) (sp dp : Nat) :
    (overPixel inst hle c m sp dp).length = c.px := by
  unfold overPixel
  dsimp only
  rw [length_flatMap_const _ c.ass.toNat _ fun _ _ => length_sampleBytes _ _ _, List.length_range]
  rfl

end Sys2Proof.Machine
end

