-- ==== Sys2Proof/Tests/Slice0.lean ====
section
/-!
SUPPORT. The model's own tests: the well-formedness smoke test, decoding of words written out from the encodings, one step of
each command against a vector of spec/95_test_vectors.md, and a witness for the hypotheses of every obligation that has some.

Expected values come from the vector named in each comment, or from the rule's own words; none was copied from the model.
-/

namespace Sys2Proof.Tests

open Sys2Proof.Machine Sys2Proof.Claims

/-! ### Small states -/

/-- Bytes from numbers. -/
def bytes (l : List Nat) : List Byte := l.map (BitVec.ofNat 8)

/-- A memory that holds the given pieces. -/
def image (pieces : List (Nat × List Nat)) : Memory := pieces.foldl (fun m q => m.write q.1 (bytes q.2)) []

/-- A running engine, MEMSIZE = 0x1000, all registers as after reset, with the given pieces in memory. -/
def start (pieces : List (Nat × List Nat)) : State := { State.reset with mem := image pieces, status := .busy }

/-- The outcome is a next state that passes `p`. -/
def got (o : Host.Outcome State Fault Refusal) (p : State → Bool) : Bool :=
  match o with
  | .next t => p t
  | .fault _ => false
  | .refused _ => false

/-- Memory holds `l` from `a` on. -/
def holds (t : State) (a : Nat) (l : List Nat) : Bool := t.mem.read a l.length == bytes l

/-- The engine is in ERR with this report, at CP = 0. -/
def failedWith (code i0 i1 i2 : Nat) (t : State) : Bool :=
  t.status == .err &&
    t.err == { errcode := BitVec.ofNat 32 code, errcp := 0, errinfo0 := BitVec.ofNat 32 i0, errinfo1 := BitVec.ofNat 32 i1,
               errinfo2 := BitVec.ofNat 32 i2 }

/-- The command ended with OLEN = `n`. -/
def wrote (n : Nat) (t : State) : Bool := t.status == .busy && t.cp == 32 && t.olen == BitVec.ofNat 32 n

/-- A descriptor written as its bytes: the head, then zeros up to 32. -/
def padded (l : List Nat) : List Byte := bytes (l ++ List.replicate (32 - l.length) 0)

/-- What the decoder reads from a padded descriptor. -/
def reads (l : List Nat) (i : Instr) : Bool :=
  match decodeBytes (padded l) with
  | .ok (j, rest) => j == i && rest.isEmpty
  | .error _ => false

/-! ### Well-formedness: one ill-formed command for each check -/

theorem test_wf_unpack_depth : (Instr.unpack 3 0 1 1 0x100).wellFormed = false := by decide
theorem test_wf_pack_depth : (Instr.pack 8 0 1 1 0x100).wellFormed = false := by decide
theorem test_wf_unfilt_bpp : (Instr.unfilt 0 0 1 1 0x100).wellFormed = false := by decide
theorem test_wf_filt_bpp : (Instr.filt 9 0 0 1 1 0x100).wellFormed = false := by decide
theorem test_wf_filt_kind : (Instr.filt 1 5 0 1 1 0x100).wellFormed = false := by decide
theorem test_wf_deint_depth : (Instr.deint 3 1 0 0 1 1 0x100).wellFormed = false := by decide
theorem test_wf_deint_channels : (Instr.deint 8 5 0 0 1 1 0x100).wellFormed = false := by decide
theorem test_wf_deint_interlace : (Instr.deint 8 1 2 0 1 1 0x100).wellFormed = false := by decide
theorem test_wf_deint_width : (Instr.deint 8 1 0 0 0 1 0x100).wellFormed = false := by decide
theorem test_wf_intl_depth : (Instr.intl 32 1 0 0 1 1 0x100 1).wellFormed = false := by decide
theorem test_wf_intl_channels : (Instr.intl 8 0 0 0 1 1 0x100 1).wellFormed = false := by decide
theorem test_wf_intl_interlace : (Instr.intl 8 1 3 0 1 1 0x100 1).wellFormed = false := by decide
theorem test_wf_intl_height : (Instr.intl 8 1 0 0 1 0 0x100 0).wellFormed = false := by decide
theorem test_wf_palld_triples : (Instr.palld 0 7).wellFormed = false := by decide
theorem test_wf_palld_entries : (Instr.palld 0 771).wellFormed = false := by decide
theorem test_wf_palx_depth : (Instr.palx 16 0 1 1 0x100 2).wellFormed = false := by decide
theorem test_wf_palx_width : (Instr.palx 8 0 0 1 0x100 0).wellFormed = false := by decide
theorem test_wf_acfg_channels : (Instr.acfg 0 1 0 1 1 0x100).wellFormed = false := by decide
theorem test_wf_acfg_bytes : (Instr.acfg 1 3 0 1 1 0x100).wellFormed = false := by decide
theorem test_wf_acfg_height : (Instr.acfg 1 1 0 1 0 0x100).wellFormed = false := by decide
theorem test_wf_compose_dispose : (Instr.compose 3 0 0 1 1 0x100 0 0).wellFormed = false := by decide
theorem test_wf_compose_blend : (Instr.compose 0 2 0 1 1 0x100 0 0).wellFormed = false := by decide
theorem test_wf_accepts : (Instr.filt 8 4 0 1 1 0x100).wellFormed = true ∧ (Instr.palld 0 768).wellFormed = true ∧
    (Instr.deint 16 4 1 0 1 1 0x100).wellFormed = true ∧ (Instr.compose 2 1 0 1 1 0x100 0 0).wellFormed = true := by decide

/-! ### Decoding: a descriptor of every command, its bytes written from R91 and R94 -/

theorem test_decode_halt : reads [] .halt = true := by decide
theorem test_decode_nop : reads [0x01] .nop = true := by decide
theorem test_decode_setcur : reads [0x02, 0, 0, 0, 0xDE, 0xAD, 0xBE, 0xEF] (.setcur 0xDEADBEEF) = true := by decide
theorem test_decode_crc : reads [0x10, 0, 0, 0, 0, 0, 1, 0, 0, 0, 0, 4] (.crc 0x100 4) = true := by decide
theorem test_decode_crcchk :
    reads [0x11, 0, 0, 0, 0, 0, 0, 4, 0x49, 0x45, 0x4E, 0x44] (.crcchk 4 0x49454E44) = true := by decide
theorem test_decode_unpack :
    reads [0x20, 4, 0, 0, 0, 0, 1, 0, 0, 0, 0, 3, 0, 0, 0, 2, 0, 0, 2, 0] (.unpack 4 0x100 3 2 0x200) = true := by decide
theorem test_decode_pack :
    reads [0x21, 1, 0, 0, 0, 0, 1, 0, 0, 0, 0, 10, 0, 0, 0, 2, 0, 0, 2, 0] (.pack 1 0x100 10 2 0x200) = true := by decide
theorem test_decode_unfilt :
    reads [0x30, 3, 0, 0, 0, 0, 1, 0, 0, 0, 0, 6, 0, 0, 0, 4, 0, 0, 2, 0] (.unfilt 3 0x100 6 4 0x200) = true := by decide
theorem test_decode_filt :
    reads [0x31, 1, 4, 0, 0, 0, 1, 0, 0, 0, 0, 4, 0, 0, 0, 3, 0, 0, 2, 0] (.filt 1 4 0x100 4 3 0x200) = true := by decide
/-- P2's DEINT. -/
theorem test_decode_deint :
    reads [0x40, 0x10, 1, 1, 0, 0, 1, 0, 0, 0, 0, 2, 0, 0, 0, 2, 0, 0, 2, 0] (.deint 16 1 1 0x100 2 2 0x200) = true := by decide
theorem test_decode_intl :
    reads [0x41, 8, 1, 0, 0, 0, 1, 0, 0, 0, 0, 4, 0, 0, 0, 5, 0, 0, 3, 0, 0, 0, 0, 20] (.intl 8 1 0 0x100 4 5 0x300 20) = true := by
  decide
/-- P2's SWAP16: the destination is W4, W3 is reserved. -/
theorem test_decode_swap16 :
    reads [0x42, 0, 0, 0, 0, 0, 2, 0, 0, 0, 0, 4, 0, 0, 0, 0, 0, 0, 3, 0] (.swap16 0x200 4 0x300) = true := by decide
theorem test_decode_palld : reads [0x50, 0, 0, 0, 0, 0, 1, 0, 0, 0, 0, 6] (.palld 0x100 6) = true := by decide
theorem test_decode_paltr : reads [0x51, 0, 0, 0, 0, 0, 1, 0x20, 0, 0, 0, 2] (.paltr 0x120 2) = true := by decide
theorem test_decode_palx :
    reads [0x52, 2, 0, 0, 0, 0, 1, 0x30, 0, 0, 0, 3, 0, 0, 0, 2, 0, 0, 2, 0, 0, 0, 0, 2] (.palx 2 0x130 3 2 0x200 2) = true := by
  decide
theorem test_decode_acfg :
    reads [0x60, 2, 1, 0, 0, 0, 4, 0, 0, 0, 0, 3, 0, 0, 0, 2, 0, 0, 4, 0x40] (.acfg 2 1 0x400 3 2 0x440) = true := by decide
theorem test_decode_compose :
    reads [0x61, 2, 1, 0, 0, 0, 2, 0, 0, 0, 0, 1, 0, 0, 0, 3, 0, 0, 4, 0x80, 0, 0, 0, 5, 0, 0, 0, 6]
      (.compose 2 1 0x200 1 3 0x480 5 6) = true := by decide
/-- The host's numbering: W0's least significant bit first, later words above it. -/
theorem test_table_word :
    decodeTableWord 96 (0x10000000 + 0x100 * 2 ^ 32 + 4 * 2 ^ 64) = some (.crc 0x100 4) ∧
      decodeTableWord 32 0x03000000 = none := by decide
/-- What `withFetchWord` places is what the next step runs: V-BIT-7's check fails on F1 = 0. -/
theorem test_fetch_word : got (step (State.reset.withFetchWord 32 0x20000000)) (failedWith 6 0 0 0) = true := by decide +kernel

/-! ### One step of each command -/

/-- V-CTL-1. -/
theorem test_step_halt : got (step (start [])) (fun t => t.status == .done && t.cp == 0) = true := by decide +kernel
/-- V-CTL-2's first step. -/
theorem test_step_nop : got (step (start [(0, [1])])) (fun t => t.status == .busy && t.cp == 0x20) = true := by decide +kernel
/-- V-CTL-3. -/
theorem test_step_setcur :
    got (step (start [(0, [2, 0, 0, 0, 0xDE, 0xAD, 0xBE, 0xEF])])) (fun t => t.cur == 0xDEADBEEF) = true := by decide +kernel
/-- V-CTL-9, V-CTL-15: the opcode check precedes the field check. -/
theorem test_step_illegal_op : got (step (start [(0, [3, 1]), (31, [1])])) (failedWith 1 0x03010000 0 0) = true := by
  decide +kernel
/-- V-CTL-12: the first offender is F2. -/
theorem test_step_illegal_field :
    got (step (start [(0, [0x10, 0, 7, 0, 0, 0, 0, 1]), (31, [9])])) (failedWith 2 0x10000700 2 0) = true := by decide +kernel
/-- V-CTL-18. -/
theorem test_step_fetch :
    got (step { start [] with cp := 0xFE1 }) (fun t => t.err.errcode == 3 && t.err.errinfo0 == 0xFE1 && t.err.errinfo1 == 32) =
      true := by decide +kernel
/-- V-CRCI-1. -/
theorem test_crc :
    got (exec (.crc 0x100 4) (start [(0x100, [0x49, 0x45, 0x4E, 0x44])])) (fun t => t.crcr == 0xAE426082) = true := by
  decide +kernel
/-- V-CRC-2's polynomial and reflection: the table entry T[1]. -/
theorem test_crc_table : crcTable 1 = 0x77073096 := by decide +kernel

/-- The state of V-CHK-1: a checksum that verifies. -/
def checked : State :=
  { start [(0x200, [0x49, 0x45, 0x4E, 0x44, 0xAE, 0x42, 0x60, 0x82])] with cur := 0x204, cfg := { crcen := true, hle := false } }

/-- V-CHK-1. -/
theorem test_crcchk : got (exec (.crcchk 4 0x49454E44) checked) (fun t => t.cur == 0x208 && t.crcr == 0xAE426082) = true := by
  decide +kernel
/-- V-CHK-2: CRCR is written, CUR is not. -/
theorem test_crcchk_mismatch :
    got (exec (.crcchk 4 0x49454E44) { checked with mem := checked.mem.write 0x203 [0x45] })
      (fun t => failedWith 5 0xAE426082 0xD9455014 0x49454E44 t && t.cur == 0x204 && t.crcr == 0xD9455014) = true := by decide +kernel
/-- V-BIT-6. -/
theorem test_unpack :
    got (exec (.unpack 4 0x100 3 2 0x200) (start [(0x100, [0x12, 0x30, 0x45, 0x60])]))
      (fun t => holds t 0x200 [1, 2, 3, 4, 5, 6] && wrote 6 t) = true := by decide +kernel
/-- V-MEM-6: nothing wraps. -/
theorem test_unpack_access :
    got (exec (.unpack 4 0 0xFFFFFFFF 0xFFFFFFFF 0) (start [])) (failedWith 3 0 0xFFFFFFFF 1) = true := by decide +kernel
/-- V-BIT-10. -/
theorem test_pack :
    got (exec (.pack 4 0x100 3 1 0x200) (start [(0x100, [10, 11, 12])])) (fun t => holds t 0x200 [0xAB, 0xC0] && wrote 2 t) =
      true := by decide +kernel
/-- V-BIT-15. -/
theorem test_pack_range :
    got (exec (.pack 2 0x100 3 2 0x200) (start [(0x100, [0, 1, 2, 4, 0, 0])])) (failedWith 18 4 3 2) = true := by decide +kernel
/-- V-FLT-42: exact averages. -/
theorem test_unfilt :
    got (exec (.unfilt 2 0x100 4 2 0x200) (start [(0x100, [3, 0xFF, 0xFF, 2, 2, 3, 1, 1, 1, 1])]))
      (fun t => holds t 0x200 [0xFF, 0xFF, 0x81, 0x81, 0x80, 0x80, 0x81, 0x81] && wrote 8 t) = true := by decide +kernel
/-- V-FLT-45: a row of no bytes still has its tag checked. -/
theorem test_unfilt_tag :
    got (exec (.unfilt 1 0x100 0 1 0x200) (start [(0x100, [0xFF])])) (failedWith 10 0xFF 0 0) = true := by decide +kernel
/-- V-FLT-55. -/
theorem test_filt :
    got (exec (.filt 3 4 0x100 6 2 0x200) (start [(0x100, [0xA, 0x14, 0x1E, 0xF, 0x19, 0x23, 0xB, 0x16, 0x21, 0x14, 0x1F, 0x2A])]))
      (fun t => holds t 0x200 [4, 0xA, 0x14, 0x1E, 5, 5, 5, 4, 1, 2, 3, 5, 6, 7] && wrote 14 t) = true := by decide +kernel
/-- V-FLT-57: the check of bpp comes before that of the kind. -/
theorem test_filt_order : got (exec (.filt 0 5 0x100 1 1 0x200) (start [])) (failedWith 8 0 0 1) = true := by decide +kernel
/-- V-INT-6: depth 1, seven passes. -/
theorem test_deint :
    got (exec (.deint 1 1 1 0x100 5 2 0x300) (start [(0x100, [0, 0x80, 0, 0, 0, 0x80, 0, 0x40, 0, 0x68])]))
      (fun t => holds t 0x300 [1, 0, 1, 1, 0, 0, 1, 1, 0, 1] && wrote 10 t) = true := by decide +kernel
/-- V-INT-9: three channels, passes 1, 6 and 7. -/
theorem test_deint_channels :
    got (exec (.deint 8 3 1 0x100 2 2 0x300) (start [(0x100, [0, 1, 2, 3, 0, 4, 5, 6, 1, 7, 8, 9, 1, 1, 1])]))
      (fun t => holds t 0x300 [1, 2, 3, 4, 5, 6, 7, 8, 9, 8, 9, 10] && wrote 12 t) = true := by decide +kernel
/-- V-INT-17. -/
theorem test_intl :
    got (exec (.intl 8 3 1 0x100 2 2 0x300 12) (start [(0x100, [1, 2, 3, 7, 8, 9, 4, 5, 6, 8, 9, 10])]))
      (fun t => holds t 0x300 [0, 1, 2, 3, 0, 7, 8, 9, 0, 4, 5, 6, 8, 9, 10] && wrote 15 t) = true := by decide +kernel
/-- V-INT-16. -/
theorem test_intl_range :
    got (exec (.intl 2 1 1 0x100 4 2 0x300 8) (start [(0x100, [0, 1, 2, 3, 3, 2, 4, 0])])) (failedWith 18 4 6 2) = true := by
  decide +kernel
/-- V-SWP-1. -/
theorem test_swap16 :
    got (exec (.swap16 0x100 2 0x200)
        { start [(0x100, [0x12, 0x34, 0xAB, 0xCD])] with cfg := { crcen := false, hle := true } })
      (fun t => holds t 0x200 [0x34, 0x12, 0xCD, 0xAB] && wrote 4 t) = true := by decide +kernel
/-- V-SWP-4. -/
theorem test_swap16_overlap : got (exec (.swap16 0x100 2 0x102) (start [])) (failedWith 4 0x100 0x102 0x102) = true := by
  decide +kernel

/-- Memory with the palette PAL4 of section 2.10 and the alphas and indices of V-PAL-8. -/
def pal4 : State :=
  start [(0x100, [0x10, 0x20, 0x30, 0x40, 0x50, 0x60, 0x70, 0x80, 0x90, 0xA0, 0xB0, 0xC0]), (0x120, [0, 0x80]), (0x130, [0x1B, 0xE4])]

/-- V-PAL-8's palette after PALLD, as the vector gives it: three components, opaque. -/
def loaded : State :=
  { pal4 with
    pal := { paln := 4, palc := 3,
             lut := lutOf fun i => [⟨0x10, 0x20, 0x30, 255⟩, ⟨0x40, 0x50, 0x60, 255⟩, ⟨0x70, 0x80, 0x90, 255⟩,
               ⟨0xA0, 0xB0, 0xC0, 255⟩].getD i ⟨0, 0, 0, 0⟩ } }

/-- V-PAL-8, first command. -/
theorem test_palld :
    got (exec (.palld 0x100 12) pal4)
      (fun t => t.pal.paln == 4 && t.pal.palc == 3 && (List.range 4).all fun i => t.pal.entry i == loaded.pal.entry i) = true := by
  decide +kernel
/-- V-PAL-2. -/
theorem test_palld_length : got (exec (.palld 0x100 7) pal4) (failedWith 12 7 1 0) = true := by decide +kernel
/-- V-PAL-8, second command. -/
theorem test_paltr :
    got (exec (.paltr 0x120 2) loaded)
      (fun t => t.pal.paln == 4 && t.pal.palc == 4 &&
        (List.range 4).map (fun i => (t.pal.entry i).a) == bytes [0, 0x80, 0xFF, 0xFF] && (t.pal.entry 1).r == 0x40) = true := by
  decide +kernel
/-- V-PAL-9. -/
theorem test_paltr_count : got (exec (.paltr 0x120 5) loaded) (failedWith 15 5 4 0) = true := by decide +kernel
/-- V-PAL-8's indices 0 1 2 / 3 2 1, with V-PAL-13's three components. -/
theorem test_palx :
    got (exec (.palx 2 0x130 3 2 0x200 2) loaded)
      (fun t => holds t 0x200 [0x10, 0x20, 0x30, 0x40, 0x50, 0x60, 0x70, 0x80, 0x90, 0xA0, 0xB0, 0xC0, 0x70, 0x80, 0x90, 0x40, 0x50, 0x60]
        && wrote 18 t) = true := by decide +kernel
/-- V-PAL-7. -/
theorem test_palx_no_palette : got (exec (.palx 8 0x110 1 1 0x200 1) pal4) (failedWith 13 0 0 0) = true := by decide +kernel
/-- V-CMP-1. -/
theorem test_acfg :
    got (exec (.acfg 2 1 0x400 3 2 0x440) (start []))
      (fun t => t.comp == { acanvas := 0x400, asnap := 0x440, aw := 3, ah := 2, ach := 2, ass := 1, aframes := 0, apx := 0, apy := 0,
                            apw := 0, aph := 0, apdisp := 0 }) = true := by decide +kernel
/-- V-CMP-2. -/
theorem test_acfg_channels : got (exec (.acfg 5 1 0x400 3 2 0x440) (start [])) (failedWith 7 5 0 0) = true := by decide +kernel

/-- The state of V-CMP-21 after frame 1: a 3 by 3 canvas, dispose BACKGROUND recorded for the whole of it. -/
def afterFrame1 (dispose : Word) : State :=
  { start [(0x400, [1, 2, 3, 4, 5, 6, 7, 8, 9]), (0x210, [0xAA])] with
    comp := { acanvas := 0x400, asnap := 0x440, aw := 3, ah := 3, ach := 1, ass := 1, aframes := 1, apx := 0, apy := 0, apw := 3,
              aph := 3, apdisp := dispose } }

/-- V-CMP-21, second frame. -/
theorem test_compose :
    got (exec (.compose 0 0 0x210 1 1 0x4A0 1 1) (afterFrame1 1))
      (fun t => holds t 0x4A0 [0, 0, 0, 0, 0xAA, 0, 0, 0, 0] && holds t 0x440 [0, 0, 0, 0, 0, 0, 0, 0, 0] && wrote 9 t
        && t.comp.aframes == 2 && t.comp.apx == 1 && t.comp.apw == 1) = true := by decide +kernel

/-- The state of V-CMP-31 after frame 1: 2 by 1 pixels of four one-byte samples. -/
def rgbaFrame : State :=
  { start [(0x400, [0x10, 0x20, 0x30, 0x40, 0x50, 0x60, 0x70, 0xFF]), (0x210, [0xF0, 0xE0, 0xD0, 0x80, 0, 0, 0, 0x40])] with
    comp := { acanvas := 0x400, asnap := 0x440, aw := 2, ah := 1, ach := 4, ass := 1, aframes := 1, apx := 0, apy := 0, apw := 2,
              aph := 1, apdisp := 0 } }

/-- V-CMP-31, second frame, blend "over" with OVER_LIT. -/
theorem test_compose_over :
    got (exec (.compose 0 1 0x210 2 1 0x4A0 0 0) rgbaFrame)
      (fun t => holds t 0x4A0 [0x80, 0x80, 0x80, 0x20, 0x3B, 0x47, 0x53, 0xBF] && wrote 8 t) = true := by decide +kernel

/-! ### Witnesses: the hypotheses of the obligations can be met, clause by clause -/

theorem witness_EveryDescriptorThatDecodesIsAnEncoding : decode #v[0x10000000, 0x100, 4, 0, 0, 0, 0, 0] = .ok (.crc 0x100 4) := rfl

/-- The last descriptor that fits: CP = MEMSIZE − 32. -/
theorem witness_StepRunsTheDecodedCommand :
    let s := { start [(0xFE0, [1])] with cp := 0xFE0 }
    s.status = .busy ∧ s.cp.toNat + 32 ≤ s.config.memSize ∧ decodeBytes (s.mem.read s.cp.toNat 32) = .ok (.nop, []) :=
  ⟨rfl, by decide, rfl⟩

/-- The first CP that does not fit, and one whose range would wrap. -/
theorem witness_FetchOutsideMemoryFaults :
    (let s := { start [] with cp := 0xFE1 }; s.status = .busy ∧ s.config.memSize < s.cp.toNat + 32) ∧
    (let s := { start [] with cp := 0xFFFFFFF0 }; s.status = .busy ∧ s.config.memSize < s.cp.toNat + 32) := by decide +kernel

theorem witness_IllegalOpcodeFaults :
    let s := start [(0, [0x62])]
    s.status = .busy ∧ s.cp.toNat + 32 ≤ s.config.memSize ∧ ∀ row ∈ opcodeTable, row.1 ≠ (headByte s 0).toNat := by decide +kernel

/-- SWAP16 does not use W3 (V-CTL-16), and HALT does not use F1, the first field checked (V-CTL-5). -/
theorem witness_FirstNonzeroReservedFieldFaults :
    (let s := start [(0, [0x42, 0, 0, 0, 0, 0, 1, 0, 0, 0, 0, 2, 0, 0, 0, 1, 0, 0, 2, 0])]
     ((headByte s 0).toNat, [Slot.w1, .w2, .w4]) ∈ opcodeTable ∧
      slotPositions = [(.f1, 1), (.f2, 2), (.f3, 3), (.w1, 0x11), (.w2, 0x12)] ++
        (.w3, 0x13) :: [(.w4, 0x14), (.w5, 0x15), (.w6, 0x16), (.w7, 0x17)] ∧
      (∀ q ∈ [(Slot.f1, 1), (.f2, 2), (.f3, 3), (.w1, 0x11), (.w2, 0x12)],
        q.1 ∈ [Slot.w1, .w2, .w4] ∨ slotContent s q.1 = 0) ∧
      Slot.w3 ∉ [Slot.w1, .w2, .w4] ∧ slotContent s .w3 ≠ 0) ∧
    (let s := start [(0, [0, 1])]
     ((headByte s 0).toNat, []) ∈ opcodeTable ∧ slotPositions = [] ++ (.f1, 1) :: slotPositions.tail ∧
      slotContent s .f1 ≠ 0) := by decide +kernel

/-- The three clauses: a command that advances a CP at the top of the 32-bit range, HALT, and a fault. -/
theorem witness_CommandPointerRule :
    (∃ t, exec .nop { start [] with cp := 0xFFFFFFE0 } = .next t ∧ t.status = .busy) ∧
    (∃ t, exec .halt (start []) = .next t ∧ t.status ≠ .busy) ∧
    (∃ t, exec (.palld 0 7) (start []) = .next t ∧ t.status = .err) :=
  ⟨⟨_, rfl, rfl⟩, ⟨_, rfl, by decide⟩, ⟨_, rfl, rfl⟩⟩

theorem witness_PlacedDescriptorIsFetched :
    32 ≤ (State.resetWith { memSize := 32, overFn := .lit }).config.memSize ∧
      decode #v[0x02000000, 5, 0, 0, 0, 0, 0, 0] = .ok (.setcur 5) := ⟨by decide, rfl⟩

/-- V-CRCI-3 and V-CRCI-5 (admitted: empty, and ending exactly at MEMSIZE), V-CRCI-4 (not admitted). -/
theorem witness_CrcCommandFollowsItsRule :
    Fits (start []) 0xFFFFFFFF (0 : Word).toNat ∧ Fits (start []) 0xFFD (3 : Word).toNat ∧
      ¬Fits (start []) 0xFFE (3 : Word).toNat := by decide +kernel

/-- The cases at their limits: V-CHK-7, V-CHK-6, V-CHK-4, V-CHK-5 and CUR = MEMSIZE, an empty covered range above MEMSIZE, the reading
of log entry 18 at CUR = MEMSIZE + 1, V-CHK-1, V-CHK-2. -/
theorem witness_CrcchkFollowsItsRule :
    (let s := { start [] with cur := 0xFFC }; s.cfg.crcen = false ∧ s.cur.toNat + 4 ≤ s.config.memSize) ∧
    (let s := { start [] with cur := 0xFFD }; s.cfg.crcen = false ∧ s.config.memSize < s.cur.toNat + 4) ∧
    (checked.cfg.crcen = true ∧ checked.cur.toNat < (0x205 : Word).toNat) ∧
    (let s := { checked with cur := 0xFFD }
     s.cfg.crcen = true ∧ (4 : Word).toNat ≤ s.cur.toNat ∧ s.cur.toNat ≤ s.config.memSize ∧ s.config.memSize < s.cur.toNat + 4) ∧
    (let s := { checked with cur := 0x1000 }
     (4 : Word).toNat ≤ s.cur.toNat ∧ s.cur.toNat ≤ s.config.memSize ∧ s.config.memSize < s.cur.toNat + 4) ∧
    (let s := { checked with cur := 0x1001 }
     ((0 : Word).toNat ≤ s.cur.toNat ∧ (0 : Word).toNat = 0 ∧ s.config.memSize < s.cur.toNat + 4) ∧
      0 < (4 : Word).toNat ∧ (4 : Word).toNat ≤ s.cur.toNat ∧ s.config.memSize < s.cur.toNat) ∧
    (checked.cfg.crcen = true ∧ (4 : Word).toNat ≤ checked.cur.toNat ∧ checked.cur.toNat + 4 ≤ checked.config.memSize ∧
      be32 (checked.mem.byte 0x204) (checked.mem.byte 0x205) (checked.mem.byte 0x206) (checked.mem.byte 0x207) =
        crc32 ((List.range (4 : Word).toNat).map fun i => checked.mem.byte (0x200 + i))) ∧
    (let m := checked.mem.write 0x203 [0x45]
     be32 (m.byte 0x204) (m.byte 0x205) (m.byte 0x206) (m.byte 0x207) ≠
        crc32 ((List.range (4 : Word).toNat).map fun i => m.byte (0x200 + i))) := by decide +kernel

/-- The byte of V-CHK-2 changed under a checksum that verified; and the same run with CRCEN = 0 (V-CHK-3). -/
theorem witness_ChangingOneByteIsDetected :
    (∃ t u, exec (.crcchk 4 0x49454E44) checked = .next t ∧ t.status ≠ .err ∧
      exec (.crcchk 4 0x49454E44) { checked with mem := checked.mem.write (checked.cur.toNat - (4 : Word).toNat + 3) [0x45] } =
        .next u) ∧
    (checked.cfg.crcen = true ∧ checked.status ≠ .err ∧ 3 < (4 : Word).toNat ∧
      (0x45 : Byte) ≠ checked.mem.byte (checked.cur.toNat - (4 : Word).toNat + 3)) ∧
    (start []).cfg.crcen = false ∧ (start []).cur.toNat + 4 ≤ (start []).config.memSize := by
  have h : got (exec (.crcchk 4 0x49454E44) checked) (fun t => t.status != .err) = true ∧
      got (exec (.crcchk 4 0x49454E44)
        { checked with mem := checked.mem.write (checked.cur.toNat - (4 : Word).toNat + 3) [0x45] }) (fun _ => true) = true := by
    decide +kernel
  refine ⟨?_, by decide +kernel⟩
  obtain ⟨h1, h2⟩ := h
  revert h1 h2
  cases exec (.crcchk 4 0x49454E44) checked <;>
    cases exec (.crcchk 4 0x49454E44)
        { checked with mem := checked.mem.write (checked.cur.toNat - (4 : Word).toNat + 3) [0x45] } <;>
    simp [got]

/-- Adjacent ranges (V-MEM-3's shape), ranges ending at MEMSIZE, and an empty one (V-BIT-8). -/
theorem witness_UnpackWritesEveryLane :
    ((1 : Byte).toNat ∈ [1, 2, 4] ∧ Ready (start []) 0x140 8 0x100 64) ∧
    ((4 : Byte).toNat ∈ [1, 2, 4] ∧ Ready (start []) 0xFFE 2 0x200 3) ∧
    Ready (start []) 0xFFFFFFFF ((5 : Word).toNat * divCeil ((0 : Word).toNat * 1) 8) 0xFFFFFFFF 0 := by decide +kernel

/-- V-BIT-13's samples. -/
theorem witness_PackFillsEveryLane :
    let s := start [(0x100, [1, 0, 1, 0, 1, 0, 0, 1, 0, 0, 1, 1, 1, 1, 1, 1, 1, 1, 0, 0])]
    Ready s 0x100 ((2 : Word).toNat * (10 : Word).toNat) 0x200 ((2 : Word).toNat * divCeil ((10 : Word).toNat * 1) 8) ∧
    ∀ j < (2 : Word).toNat * (10 : Word).toNat, (s.mem.byte ((0x100 : Word).toNat + j)).toNat < 2 ^ (1 : Byte).toNat := by
  decide +kernel

/-- V-BIT-15. -/
theorem witness_PackRefusesTheFirstWideSample :
    let s := start [(0x100, [0, 1, 2, 4, 0, 0])]
    Ready s 0x100 6 0x200 2 ∧ (∀ k < 3, (s.mem.byte (0x100 + k)).toNat < 2 ^ 2) ∧ 2 ^ 2 ≤ (s.mem.byte (0x100 + 3)).toNat := by
  decide +kernel

/-- Samples at the limit of depth 2, and a packed row whose unused lane is zero (law (b)). -/
theorem witness_PackAndUnpackAreInverse :
    (2 ∈ [1, 2, 4] ∧ ∀ v ∈ bytes [3, 2, 1], v.toNat < 2 ^ 2) ∧
    ((bytes [0xA5, 0xC0]).length = divCeil (10 * 1) 8 ∧
      ∀ i < 16, 10 ≤ i → i * 1 / 8 < 2 → lane ((bytes [0xA5, 0xC0]).getD (i * 1 / 8) 0) 1 i = 0) := by decide +kernel

/-- V-FLT-42, and a stream of empty rows (V-FLT-46), with bpp at both ends of its range. -/
theorem witness_UnfiltReconstructsEveryByte :
    (let s := start [(0x100, [3, 0xFF, 0xFF, 2, 2, 3, 1, 1, 1, 1])]
     (1 ≤ (8 : Byte).toNat ∧ (8 : Byte).toNat ≤ 8) ∧ Ready s 0x100 10 0x200 8 ∧
      ∀ r < 2, (s.mem.byte (0x100 + r * 5)).toNat ≤ 4) ∧
    (let s := start [(0x100, [4, 3, 0])]
     (1 ≤ (1 : Byte).toNat ∧ (1 : Byte).toNat ≤ 8) ∧ Ready s 0x100 3 0x200 0 ∧
      ∀ r < 3, (s.mem.byte (0x100 + r * 1)).toNat ≤ 4) := by decide +kernel

/-- V-FLT-44. -/
theorem witness_UnfiltRefusesTheFirstBadTag :
    let s := start [(0x100, [0, 0xA, 5, 0xB])]
    Ready s 0x100 4 0x200 2 ∧ 1 < 2 ∧ (∀ r < 1, (s.mem.byte (0x100 + r * 2)).toNat ≤ 4) ∧ 4 < (s.mem.byte (0x100 + 1 * 2)).toNat := by
  decide +kernel

/-- V-FLT-50 and V-FLT-58. -/
theorem witness_FiltSubtractsThePredictor :
    (1 ≤ (1 : Byte).toNat ∧ (1 : Byte).toNat ≤ 8) ∧ (4 : Byte).toNat ≤ 4 ∧
      Ready (start []) 0x100 (3 * 4) 0x200 (3 * 5) ∧ Ready (start []) 0x100 (3 * 0) 0x200 (3 * 1) := by decide +kernel

theorem witness_UnfilterInvertsFilter :
    (bytes [250, 3, 99]).length = (bytes [12, 200, 7]).length ∧ ∀ l ∈ [bytes [12, 200, 7], bytes [0, 255, 1]], l.length = 3 := by decide

/-- The last pixel of a 9 by 9 image, the last pass of the list, and a pass that is in the list but empty at width 1. -/
theorem witness_EveryPixelBelongsToExactlyOnePass :
    ((8 : Nat) < 9 ∧ (8 : Nat) < 9) ∧ 6 < sevenPasses.length ∧ (⟨4, 0, 8, 8⟩ : Pass) ∈ passesOf 1 := by decide

/-- V-INT-6: depth 1, seven passes, every tag 0. -/
theorem witness_DeintReassemblesEveryPass :
    let s := start [(0x100, [0, 0x80, 0, 0, 0, 0x80, 0, 0x40, 0, 0x68])]
    LegalImage 1 1 1 5 2 ∧ Ready s 0x100 (streamLen 1 1 1 5 2) 0x300 (5 * 2 * pixBytes 1 1) ∧
    ∀ k, (hk : k < (livePasses 1 5 2).length) → ∀ row < (livePasses 1 5 2)[k].height 2,
      (s.mem.byte (rowAddr 1 1 5 (0x100 + passStart 1 1 1 5 2 k) row (livePasses 1 5 2)[k])).toNat ≤ 4 := by decide +kernel

/-- V-INT-24: the first bad tag is that of row 1 of the fourth non-empty pass. -/
theorem witness_DeintRefusesTheFirstBadTag :
    let s := start [(0x100, [0, 0xA, 0, 0x14, 0, 5, 5, 0, 0, 0, 5, 0, 0])]
    let tag := fun (k row : Nat) (p : Pass) => (s.mem.byte (rowAddr 8 1 4 (0x100 + passStart 8 1 1 4 4 k) row p)).toNat
    LegalImage 8 1 1 4 4 ∧ Ready s 0x100 (streamLen 8 1 1 4 4) 0x300 (4 * 4 * pixBytes 8 1) ∧
    3 < (livePasses 1 4 4).length ∧
    (∀ k', (hk' : k' < (livePasses 1 4 4).length) → ∀ row' < (livePasses 1 4 4)[k'].height 4,
      k' < 3 ∨ (k' = 3 ∧ row' < 1) → tag k' row' (livePasses 1 4 4)[k'] ≤ 4) ∧
    4 < tag 3 1 ((livePasses 1 4 4).getD 3 ⟨0, 0, 1, 1⟩) := by decide +kernel

/-- V-INT-12 (depth below 8) and V-INT-15 (depth 16). -/
theorem witness_IntlDecomposesEveryPass :
    (let s := start [(0x100, [1, 0, 1, 1, 0, 0, 1, 1, 0, 1])]
     LegalImage 1 1 1 5 2 ∧ (10 : Word).toNat = 5 * 2 * pixBytes 1 1 ∧
      Ready s 0x100 (5 * 2 * pixBytes 1 1) 0x300 (streamLen 1 1 1 5 2) ∧
      ∀ j < 5 * 2 * pixBytes 1 1, (s.mem.byte (0x100 + j)).toNat < 2 ^ 1) ∧
    (LegalImage 16 2 0 2 2 ∧ (16 : Word).toNat = 2 * 2 * pixBytes 16 2 ∧
      Ready (start []) 0x100 (2 * 2 * pixBytes 16 2) 0x300 (streamLen 16 2 0 2 2)) := by decide +kernel

set_option synthInstance.maxSize 1024 in
/-- V-INT-16: raster offset 6 is column 2 of row 0 of the last non-empty pass, the fourth. -/
theorem witness_IntlRefusesTheFirstWideSample :
    let s := start [(0x100, [0, 1, 2, 3, 3, 2, 4, 0])]
    let live := livePasses 1 4 2
    LegalImage 2 1 1 4 2 ∧ (8 : Word).toNat = 4 * 2 * pixBytes 2 1 ∧
      Ready s 0x100 (4 * 2 * pixBytes 2 1) 0x300 (streamLen 2 1 1 4 2) ∧ (2 : Byte).toNat < 8 ∧
      live.length = 4 ∧ 0 < (live.getD 3 ⟨0, 0, 1, 1⟩).height 2 ∧ 2 < (live.getD 3 ⟨0, 0, 1, 1⟩).width 4 ∧
      (∀ k', (hk' : k' < live.length) → ∀ row' < live[k'].height 2, ∀ col' < live[k'].width 4, ∀ j' < 1,
        (k' < 3 ∨ (k' = 3 ∧ (row' < 0 ∨ (row' = 0 ∧ (col' < 2 ∨ (col' = 2 ∧ j' < 0)))))) →
        (s.mem.byte (0x100 + (pixelOffset live[k'] 4 1 row' col' + j'))).toNat < 2 ^ 2) ∧
      2 ^ 2 ≤ (s.mem.byte (0x100 + (pixelOffset (live.getD 3 ⟨0, 0, 1, 1⟩) 4 1 0 2 + 0))).toNat := by decide +kernel

theorem witness_ReassembleInvertsDecompose :
    (bytes [3, 0, 1, 2, 3, 1]).length = 3 * 2 * pixBytes 2 1 ∧ ∀ v ∈ bytes [3, 0, 1, 2, 3, 1], v.toNat < 2 ^ 2 := by decide +kernel

/-- bpp at its greatest value, 8. -/
theorem witness_PlainDeintEqualsUnfilt :
    (16 : Byte).toNat ∈ [8, 16] ∧ (1 ≤ (4 : Byte).toNat ∧ (4 : Byte).toNat ≤ 4) ∧ 1 ≤ (1 : Word).toNat ∧
      (1 : Word).toNat * bppOf 16 4 < 2 ^ 32 := by decide +kernel

/-- V-SWP-1 and V-SWP-3. -/
theorem witness_Swap16SwapsOrCopies :
    Ready (start []) 0x100 (2 * (2 : Word).toNat) 0x200 (2 * (2 : Word).toNat) ∧
      Ready (start []) 0x100 (2 * (0 : Word).toNat) 0x200 0 := by decide +kernel

/-- V-PAL-4 (256 entries) and V-PAL-6 (none). -/
theorem witness_PalldLoadsEveryTriple :
    ((768 : Word).toNat % 3 = 0 ∧ (768 : Word).toNat / 3 ≤ 256 ∧ Fits (start []) 0x100 (768 : Word).toNat) ∧
      ((0 : Word).toNat % 3 = 0 ∧ Fits (start []) 0x100 (0 : Word).toNat) := by decide +kernel

/-- Alphas for every entry, and V-PAL-11 (no palette, no alphas). -/
theorem witness_PaltrGivesEveryEntryItsAlpha :
    ((4 : Word).toNat ≤ loaded.pal.paln.toNat ∧ Fits loaded 0x120 (4 : Word).toNat) ∧
      ((0 : Word).toNat ≤ pal4.pal.paln.toNat ∧ Fits pal4 0x120 (0 : Word).toNat) := by decide +kernel

theorem loaded_palette_inv : loaded.pal.Inv := ⟨by decide +kernel, by decide +kernel, by decide +kernel⟩

/-- V-PAL-8's indices, the greatest of them PALN − 1. -/
theorem witness_PalxExpandsEveryPixel :
    loaded.pal.Inv ∧ 1 ≤ loaded.pal.paln.toNat ∧ (2 : Word).toNat = (2 : Word).toNat * divCeil (3 * 2) 8 ∧
      Ready loaded 0x130 (2 * divCeil (3 * 2) 8) 0x200 (3 * 2 * loaded.pal.palc.toNat) ∧
      ∀ y < 2, ∀ x < 3, lane (loaded.mem.byte (0x130 + y * divCeil (3 * 2) 8 + x * 2 / 8)) 2 x < loaded.pal.paln.toNat :=
  ⟨loaded_palette_inv, by decide +kernel⟩

/-- V-PAL-15's shape: the second of two indices is PALN itself. -/
theorem witness_PalxRefusesTheFirstBadIndex :
    let s := { loaded with mem := image [(0x130, [1, 4])] }
    Ready s 0x130 (1 * divCeil (2 * 8) 8) 0x200 (2 * 1 * s.pal.palc.toNat) ∧
      (∀ v < 1, ∀ u < 2, v * 2 + u < 0 * 2 + 1 → lane (s.mem.byte (0x130 + v * 2 + u * 8 / 8)) 8 u < s.pal.paln.toNat) ∧
      s.pal.paln.toNat ≤ lane (s.mem.byte (0x130 + 0 * 2 + 1 * 8 / 8)) 8 1 := by decide +kernel

theorem witness_AcfgConfiguresAndClears :
    (1 ≤ (4 : Byte).toNat ∧ (4 : Byte).toNat ≤ 4) ∧ (2 : Byte).toNat ∈ [1, 2] ∧ 1 ≤ (1 : Word).toNat ∧
      1 ≤ (0xFFFFFFFF : Word).toNat := by decide +kernel

theorem afterFrame1_inv : (afterFrame1 1).comp.Inv :=
  ⟨by decide +kernel, by decide +kernel, by decide +kernel, by decide +kernel, by decide +kernel, by decide +kernel, by decide +kernel⟩

theorem rgbaFrame_inv : rgbaFrame.comp.Inv :=
  ⟨by decide +kernel, by decide +kernel, by decide +kernel, by decide +kernel, by decide +kernel, by decide +kernel, by decide +kernel⟩

/-- V-CMP-10 (a first frame with fw = fh = 0) and V-CMP-21's second frame, at the canvas's last pixel. -/
theorem witness_ComposeSourceOverwritesTheRectangle :
    (let s := { afterFrame1 0 with comp := { (afterFrame1 0).comp with aframes := 0 } }
     ComposeReady s 0 0 0x200 0 0 0x480 0 0 ∧ s.comp.aframes = 0) ∧
    (afterFrame1 1).comp.Inv ∧ ComposeReady (afterFrame1 1) 2 0 0x210 1 1 0x4A0 2 2 :=
  ⟨by decide +kernel, afterFrame1_inv, by decide +kernel⟩

/-- V-CMP-31's second frame. -/
theorem witness_ComposeOverBlendsEverySample :
    rgbaFrame.comp.Inv ∧ ComposeReady rgbaFrame 0 1 0x210 2 1 0x4A0 0 0 ∧ rgbaFrame.comp.aframes ≠ 0 :=
  ⟨rgbaFrame_inv, by decide +kernel⟩

theorem witness_EveryOverIsAdmissible :
    (1 ∈ [1, 2] ∧ 255 ≤ 2 ^ (8 * 1) - 1) ∧ (2 ∈ [1, 2] ∧ 65535 ≤ 2 ^ (8 * 2) - 1) := by decide

theorem witness_DefaultOverIsTheLiteralFormula : 2 ∈ [1, 2] ∧ 0 < 65535 ∧ 65535 ≤ 2 ^ (8 * 2) - 1 := by decide

/-- A report for each clause: V-MEM-1 for UNPACK, PACK to an absent range, V-FLT-47 for UNFILT, V-FLT-56 for FILT, V-MEM-7 for
SWAP16. -/
theorem witness_RowCommandsRecordTheFirstFailingCheck :
    let s := start []
    firstOf (depthReport 1 [1, 2, 4] :: rangeReports s 0x100 (1 * divCeil (8 * 1) 8) 0x100 (1 * 8)) =
      some ⟨4, 0x100, 0x100, 0x102⟩ ∧
    firstOf (depthReport 1 [1, 2, 4] :: rangeReports s 0x100 (1 * 8) 0x1000 (1 * divCeil (8 * 1) 8)) = some ⟨3, 0x1000, 1, 2⟩ ∧
    firstOf (failing (!decide (1 ≤ (9 : Byte).toNat ∧ (9 : Byte).toNat ≤ 8)) ⟨8, 9, 0, 1⟩ :: rangeReports s 0x100 2 0x200 1) =
      some ⟨8, 9, 0, 1⟩ ∧
    firstOf (failing (decide (4 < (5 : Byte).toNat)) ⟨10, 5, 0xFFFFFFFF, 0⟩ :: rangeReports s 0x100 1 0x200 2) =
      some ⟨10, 5, 0xFFFFFFFF, 0⟩ ∧
    firstOf (rangeReports s 0x100 (2 * (0x80000000 : Word).toNat) 0x200 (2 * (0x80000000 : Word).toNat)) =
      some ⟨3, 0x100, 0xFFFFFFFF, 1⟩ := by decide +kernel

/-- V-INT-25 for DEINT, V-INT-14 for INTL, V-PAL-7 for PALX. -/
theorem witness_ImageCommandsRecordTheFirstFailingCheck :
    let s := start []
    firstOf ([depthReport 8 [1, 2, 4, 8, 16], channelsReport 1, failing false ⟨11, 0, 0, 0⟩, sizeReport 4 4] ++
      rangeReports s 0x100 (streamLen 8 1 0 4 4) 0x110 16) = some ⟨4, 0x100, 0x110, 0x102⟩ ∧
    firstOf ([depthReport 8 [1, 2, 4, 8, 16], channelsReport 1, failing false ⟨11, 1, 0, 0⟩, sizeReport 4 4] ++
      failing ((15 : Word).toNat != 16) ⟨9, 15, min 16 (2 ^ 32 - 1), 0⟩ :: rangeReports s 0x100 16 0x300 23) =
      some ⟨9, 15, 16, 0⟩ ∧
    firstOf ([depthReport 8 [1, 2, 4, 8], sizeReport 1 1, failing (s.pal.paln == 0) ⟨13, 0, 0, 0⟩] ++
      rangeReports s 0x110 1 0x200 0) = some ⟨13, 0, 0, 0⟩ := by decide +kernel

/-- V-PAL-3 for PALLD, V-PAL-10 for PALTR, V-CMP-4 for ACFG. -/
theorem witness_SetupCommandsRecordTheFirstFailingCheck :
    let s := start []
    firstOf [failing ((771 : Word).toNat % 3 != 0) ⟨12, 771, 1, 0⟩, failing (decide (256 < (771 : Word).toNat / 3)) ⟨12, 771, 2, 0⟩,
      accessReport s 0x100 771 1] = some ⟨12, 771, 2, 0⟩ ∧
    firstOf [failing (decide (s.pal.paln.toNat < (1 : Word).toNat)) ⟨15, 1, s.pal.paln.toNat, 0⟩, accessReport s 0x120 1 1] =
      some ⟨15, 1, 0, 0⟩ ∧
    firstOf [channelsReport 4, depthReport 2 [1, 2], sizeReport 0 2] = some ⟨8, 0, 2, 2⟩ := by decide +kernel

/-- The first and the last check of the list: V-CMP-8's tag, and V-CMP-16's overlap of snapshot and output. -/
theorem witness_ComposeRecordsTheFirstFailingCheck :
    firstOf [failing (decide (2 < (3 : Byte).toNat)) ⟨16, 3, 0, 0⟩, failing (decide (1 < (2 : Byte).toNat)) ⟨17, 2, 0, 0⟩] =
      some ⟨16, 3, 0, 0⟩ ∧
    firstOf [overlapReport 0x200 12 0x400 12 1 2, overlapReport 0x200 12 0x440 12 1 3, overlapReport 0x200 12 0x44B 12 1 4,
      overlapReport 0x400 12 0x440 12 2 3, overlapReport 0x400 12 0x44B 12 2 4, overlapReport 0x440 12 0x44B 12 3 4] =
      some ⟨4, 0x440, 0x44B, 0x304⟩ := by decide +kernel

/-- A command whose check fails, and one whose data fails (V-BIT-17). -/
theorem witness_FaultEntryChangesNothingElse_and_MemoryAfterAFault :
    (∃ t, exec (.palld 0 7) (start []) = .next t ∧ t.status = .err ∧ dataDependent t.err.errcode (.palld 0 7) = false) ∧
    (∃ t, exec (.pack 4 0x100 2 1 0x200) (start [(0x100, [0xF, 0x10])]) = .next t ∧ t.status = .err ∧
      dataDependent t.err.errcode (.pack 4 0x100 2 1 0x200) = true) ∧
    ∀ r ∈ writtenRanges (start []) (.pack 4 0x100 2 1 0x200), 0x201 < r.1 ∨ r.1 + r.2 ≤ 0x201 := by
  refine ⟨⟨_, rfl, rfl, rfl⟩, ?_, by decide +kernel⟩
  have h : got (exec (.pack 4 0x100 2 1 0x200) (start [(0x100, [0xF, 0x10])]))
      (fun t => t.status == .err && dataDependent t.err.errcode (.pack 4 0x100 2 1 0x200)) = true := by decide +kernel
  revert h
  cases exec (.pack 4 0x100 2 1 0x200) (start [(0x100, [0xF, 0x10])]) <;> simp [got]

theorem witness_MemoryAfterAFault :
    ∃ t, exec (.palld 0 7) (start []) = .next t ∧ t.status = .err ∧ dataDependent t.err.errcode (.palld 0 7) = false :=
  ⟨_, rfl, rfl, rfl⟩

/-- A well-formed FILT, no COMPOSE, that faults on its range. -/
theorem witness_WellFormedCommandsPassTheirFieldChecks :
    (Instr.filt 8 4 0xFFF 2 1 0x200).wellFormed = true ∧ (Instr.filt 8 4 0xFFF 2 1 0x200).opcode ≠ .compose ∧
      got (exec (.filt 8 4 0xFFF 2 1 0x200) (start [])) (fun t => t.status == .err && t.err.errcode == 3) = true := by decide +kernel

theorem witness_RegistersAreWrittenOnlyByTheirCommands :
    ∃ t, exec .nop (start []) = .next t ∧ Opcode.nop ∉ [Opcode.setcur, .crcchk] := ⟨_, rfl, by decide⟩

theorem witness_MemoryIsWrittenOnlyInsideTheRanges :
    (afterFrame1 1).comp.Inv ∧ loaded.pal.Inv ∧
      ∀ r ∈ writtenRanges (afterFrame1 1) (.compose 0 0 0x210 1 1 0x4A0 1 1), 0x409 < r.1 ∨ r.1 + r.2 ≤ 0x409 :=
  ⟨afterFrame1_inv, loaded_palette_inv, by decide +kernel⟩

theorem witness_EngineRunStateTransitions :
    State.reset.status ≠ .busy ∧ (start []).status = .busy ∧ ∃ t, step (start []) = .next t :=
  ⟨by decide, rfl, _, rfl⟩

theorem witness_EveryRunEnds : (start []).config.memSize < 2 ^ 32 ∧ (start []).status = .busy := by decide

theorem start_inv : (start [(0, [1])]).Inv where
  params := by unfold Config.Params.Legal; decide +kernel
  memWf := by decide +kernel
  memInside := by decide +kernel
  palette := ⟨by decide +kernel, by decide +kernel, by decide +kernel⟩
  compositor :=
    ⟨by decide +kernel, by decide +kernel, by decide +kernel, by decide +kernel, by decide +kernel, by decide +kernel, by decide +kernel⟩
  faults := ⟨by decide +kernel, by decide +kernel⟩

theorem witness_EveryStepKeepsTheInvariant : (start [(0, [1])]).Inv ∧ ∃ t, step (start [(0, [1])]) = .next t :=
  ⟨start_inv, _, rfl⟩

/-- A write of the last byte of MEM by the host. -/
theorem witness_EveryHostMoveKeepsTheInvariant :
    let s := { start [(0, [1])] with status := .idle }
    s.Inv ∧ ∃ t, hostStep (.writeMem 0xFFF 7) s = .next t :=
  ⟨{ start_inv with faults := ⟨by decide +kernel, by decide +kernel⟩ }, _, rfl⟩

theorem witness_EveryReachableStateHasTheInvariant :
    (Config.Params.Legal { memSize := 32, overFn := .other 0 } ∧ Config.Params.Legal { memSize := 2 ^ 32, overFn := .norm }) ∧
      Reachable Config.defaults State.reset :=
  ⟨by unfold Config.Params.Legal; decide +kernel, .reset⟩

/-- A RST bit, a running command whose written ranges leave a byte outside. -/
theorem witness_ResetFromEveryState :
    (3 : Word).getLsbD 1 = true ∧ decode (start [(0, [1])]).descriptorAtCp = .ok .nop := ⟨by decide, rfl⟩

theorem witness_GoStartsAStoppedEngine :
    (1 : Word).getLsbD 1 = false ∧ (1 : Word).getLsbD 0 = true ∧ (0 : Word).getLsbD 0 = false ∧ State.reset.status = .idle ∧
      { State.reset with status := .done }.status = .done ∧ { State.reset with status := .err }.status = .err ∧
      (start []).status = .busy := by decide +kernel

/-- The two run states the clauses divide on, and register numbers at the ends of each clause's range: the first and last of each run
of R24's map, the reserved numbers beside them, and a number with no write. -/
theorem witness_HostRegisterAccess :
    (State.reset.status ≠ .busy ∧ (start []).status = .busy) ∧
    (∀ n ∈ [0x01, 0x0D, 0x10, 0x1B, 0x20, 0x27], n ∈ (registerMap (start [])).map Prod.fst) ∧
    (∀ n ∈ [0x00, 0x0E, 0x0F, 0x1C, 0x1F, 0x28], n = 0 ∨ n = 0x0E ∨ n = 0x0F ∨ (0x1C ≤ n ∧ n ≤ 0x1F) ∨ 0x28 ≤ n) ∧
    (∀ n ∈ [0x01, 0x05, 0x27, 0x28], n ∉ [0, 2, 3, 4]) ∧ (0 ≠ 1 ∧ 2 ≠ 1 ∧ 2 ≠ 0) := by decide

/-- The last byte of MEM, the first address past it, and a running engine. -/
theorem witness_HostMemoryAccess :
    (start []).status = .busy ∧ State.reset.status ≠ .busy ∧ 0xFFF < State.reset.config.memSize ∧ State.reset.config.memSize ≤ 0x1000 := by decide +kernel

end Sys2Proof.Tests
end

section
/-!
PROOFS of the family 30_encoding.md. The claims restate the descriptor at CP from its bytes (R63, R91) and the opcode map from
R94's table; the first lemmas tie these to the fetch and to the decoder's own tables, once for every statement about rejects.
-/

namespace Sys2Proof.Machine

open Sys2Proof.Claims

/-! ### The descriptor at CP, as the claims write it -/

/-- R63: word `k` of the descriptor, put together from its four bytes, is the big-endian word the fetch reads. -/
theorem headWord_eq_word (s : State) (k : Nat) : headWord s k = (s.mem.word (s.cp.toNat + 4 * k)).toNat := by
  simp only [headWord, headByte, Memory.word, be32_toNat, Nat.add_assoc]

/-- R91: `OP` is the first byte of the descriptor. -/
@[simp] theorem opField_descriptorAtCp (s : State) : opField s.descriptorAtCp = headByte s 0 :=
  wordByte_be32_0 _ _ _ _

/-- The word of the descriptor as a machine word. -/
@[simp] theorem ofNat_headWord (s : State) (k : Nat) : BitVec.ofNat 32 (headWord s k) = s.mem.word (s.cp.toNat + 4 * k) := by
  rw [headWord_eq_word, BitVec.ofNat_toNat, BitVec.setWidth_eq]

/-- R102 step 2: the latched state of the claims is the state after the fetch. -/
theorem latched_eq_fetched (s : State) : latched s = s.fetched := by
  -- The latches are compared as lists: the length proof inside a vector stays out of the rewriting.
  refine congrArg s.withLatches (Vector.toArray_inj.mp (congrArg List.toArray ?_))
  simp only [ofNat_headWord, Nat.mul_zero, Nat.add_zero, Nat.reduceMul]

/-- R91: the bytes and words the claims read as a field are the field the decoder reads. -/
theorem slotContent_eq_value (s : State) (sl : Slot) : slotContent s sl = sl.value s.descriptorAtCp := by
  cases sl
  case f1 => exact congrArg BitVec.toNat (wordByte_be32_1 _ _ _ _).symm
  case f2 => exact congrArg BitVec.toNat (wordByte_be32_2 _ _ _ _).symm
  case f3 => exact congrArg BitVec.toNat (wordByte_be32_3 _ _ _ _).symm
  all_goals exact headWord_eq_word s _

/-! ### R94's table and R96's order -/

/-- The claims' copy of R94's table has the rows of the decoder's. -/
theorem opcodeTable_eq_map : opcodeTable = Opcode.all.map fun op => (op.byte.toNat, op.used) := rfl

/-- R94: a row of the table whose number is `b` is the row of the opcode that the decoder selects for `b`. -/
theorem ofByte_of_mem_opcodeTable {b : Byte} {used : List Slot} (h : (b.toNat, used) ∈ opcodeTable) :
    ∃ op, Opcode.ofByte b = some op ∧ op.used = used := by
  rw [opcodeTable_eq_map, List.mem_map] at h
  obtain ⟨op, -, hrow⟩ := h
  obtain ⟨hbyte, hused⟩ := Prod.mk.inj hrow
  exact ⟨op, BitVec.eq_of_toNat_eq hbyte ▸ Opcode.ofByte_byte op, hused⟩

/-- R96: the claims' positions are the model's fields in order, each beside its `pos`. -/
theorem slotPositions_eq_map : slotPositions = slotOrder.map fun sl => (sl, sl.pos) := rfl

theorem pos_of_mem_slotPositions {sl : Slot} {pos : Nat} (h : (sl, pos) ∈ slotPositions) : sl.pos = pos := by
  rw [slotPositions_eq_map, List.mem_map] at h
  obtain ⟨_, -, hrow⟩ := h
  obtain ⟨rfl, hpos⟩ := Prod.mk.inj hrow
  exact hpos

/-- A cut of the positions at a field cuts the order of the check at that field. -/
theorem slotOrder_eq_of_slotPositions_eq {before after : List (Slot × Nat)} {sl : Slot} {pos : Nat}
    (h : slotPositions = before ++ (sl, pos) :: after) :
    slotOrder = before.map Prod.fst ++ sl :: after.map Prod.fst := by
  have hfst := congrArg (List.map Prod.fst) h
  simpa [slotPositions_eq_map, Function.comp_def] using hfst

/-! ### The reserved-field check and the step it stops -/

/-- R96: the check finds `sl` when `sl` is reserved and not zero, and every field before it is used or zero. -/
theorem firstReserved_eq_some {op : Opcode} {x : Descriptor} {sl : Slot} {pre post : List Slot}
    (horder : slotOrder = pre ++ sl :: post) (hpre : ∀ q ∈ pre, q ∈ op.used ∨ q.value x = 0)
    (hreserved : sl ∉ op.used) (hvalue : sl.value x ≠ 0) : firstReserved op x = some sl := by
  refine List.find?_eq_some_iff_append.mpr ⟨by simp [hreserved, hvalue], pre, post, horder, fun q hq => ?_⟩
  rcases hpre q hq with h | h <;> simp [h]

/-- R102 step 5: a reserved field that the check finds is what the decoder rejects the descriptor for. -/
theorem decode_of_firstReserved {x : Descriptor} {op : Opcode} {sl : Slot} (hop : Opcode.ofByte (opField x) = some op)
    (hsl : firstReserved op x = some sl) : decode x = .error (.illegalField x[0] sl.pos) := by
  simp [decode, hop, hsl]

/-- R102 steps 4 and 5: a descriptor inside MEM that is no command faults with the latches loaded, and nothing is executed. -/
theorem step_of_decode_error {s : State} {e : DecodeReject} (hbusy : s.status = .busy)
    (hfit : s.cp.toNat + 32 ≤ s.config.memSize) (h : decode s.descriptorAtCp = .error e) :
    step s = .next (s.fetched.raise (rejectFault s.descriptorAtCp e)) := by
  simp [step, State.isBusy, State.canFetch, hbusy, hfit, h]

/-- R96, R300: fault entry for ILLEGAL_FIELD(W0, pos) on the descriptor at CP, in the claims' numbers. -/
theorem raise_illegalField_eq_faulted (s : State) (pos : Nat) :
    s.fetched.raise (raiseIllegalField s.descriptorAtCp[0] pos) = faulted (latched s) ⟨2, headWord s 0, pos, 0⟩ := by
  rw [latched_eq_fetched, headWord_eq_word]
  rfl

/-- Settles O7: the decoder's first reserved field is the claims' first offender, and the step raises it before it executes
anything. -/
theorem firstNonzeroReservedFieldFaults : Obligations.FirstNonzeroReservedFieldFaults := by
  unfold Obligations.FirstNonzeroReservedFieldFaults
  refine ⟨rfl, fun s used before after sl pos hbusy hfit hrow hcut hbefore hreserved hcontent => ?_⟩
  obtain ⟨op, hop, rfl⟩ := ofByte_of_mem_opcodeTable hrow
  have hpos : sl.pos = pos := pos_of_mem_slotPositions (by simp [hcut])
  simp only [slotContent_eq_value] at hbefore hcontent
  have hfirst : firstReserved op s.descriptorAtCp = some sl :=
    firstReserved_eq_some (slotOrder_eq_of_slotPositions_eq hcut) (List.forall_mem_map.mpr hbefore) hreserved hcontent
  have hdecode := decode_of_firstReserved (by rwa [opField_descriptorAtCp]) hfirst
  rw [step_of_decode_error hbusy hfit hdecode, hpos, rejectFault, raise_illegalField_eq_faulted]

end Sys2Proof.Machine
end

section
/-!
PROOFS of the family 40_crc.md. The claims state R66 by `Fits` and fault entry by `faulted`; the first lemmas tie these to the
range check of a command that only reads and to the model's own fault entry.
-/

namespace Sys2Proof.Machine

open Sys2Proof.Claims

/-! ### What a command answers, once its check is known -/

/-- A command whose check fails ends in fault entry. -/
theorem Answers.eq_raise {o : Host.Outcome State Fault Refusal} {s : State} {check : Option Raise} {P : State → Prop}
    {f : Raise} (h : Answers o s check P) (hcheck : check = some f) : o = .next (s.raise f) := by
  obtain ⟨t, ht, ⟨g, hg, rfl⟩ | ⟨hnone, -⟩⟩ := h
  · obtain rfl : g = f := Option.some.inj (hg.symm.trans hcheck)
    exact ht
  · simp [hcheck] at hnone

/-- A command whose check passes ends in one of its effects. -/
theorem Answers.exists_effect {o : Host.Outcome State Fault Refusal} {s : State} {check : Option Raise} {P : State → Prop}
    (h : Answers o s check P) (hcheck : check = none) : ∃ t, o = .next t ∧ P t := by
  obtain ⟨t, ht, ⟨g, hg, -⟩ | ⟨-, hP⟩⟩ := h
  · simp [hcheck] at hg
  · exact ⟨t, ht, hP⟩

/-! ### R66 for a command with one read range -/

/-- R66: a single read range passes the check when the claims say that it fits. -/
theorem checkRanges_readRange_eq_none {s : State} {a : Word} {n : Nat} :
    checkRanges s [readRange a n] = none ↔ Fits s a n := by
  simp [checkRanges_eq_none, readRange]

/-- R66: a single read range that does not fit is the command's range number 1. -/
theorem checkRanges_readRange_of_not_fits {s : State} {a : Word} {n : Nat} (h : ¬Fits s a n) :
    checkRanges s [readRange a n] = some (raiseAccess a.toNat n 1) :=
  if_neg (mt MemRange.admitted_iff.mp h)

/-- R66, R281, R300: fault entry for ACCESS on a range whose length is a 32-bit operand, which the information word holds in
full. -/
theorem raise_access_eq_faulted (s : State) (addr k : Nat) (len : Word) :
    s.raise (raiseAccess addr len.toNat k) = faulted s ⟨3, addr, len.toNat, k⟩ := by
  have hlen : min len.toNat (2 ^ 32 - 1) = len.toNat := Nat.min_eq_left (Nat.le_sub_one_of_lt len.isLt)
  rw [raiseAccess, hlen]
  rfl

/-! ### CRC (R123) -/

/-- R123: on an admitted range CRC ends in its effect. -/
theorem exec_crc_of_fits {s : State} {src len : Word} (h : Fits s src len.toNat) :
    exec (.crc src len) s = .next (s.withCrcr (crc32 (s.mem.read src.toNat len.toNat))).advance := by
  obtain ⟨t, ht, rfl⟩ := (execCrc_answers src len s).exists_effect (checkRanges_readRange_eq_none.mpr h)
  exact ht

/-- R123: on any other range CRC ends in fault entry. -/
theorem exec_crc_of_not_fits {s : State} {src len : Word} (h : ¬Fits s src len.toNat) :
    exec (.crc src len) s = .next (s.raise (raiseAccess src.toNat len.toNat 1)) :=
  (execCrc_answers src len s).eq_raise (checkRanges_readRange_of_not_fits h)

/-- Settles O13: the range check decides between the two outcomes, and both are the claims' states field by field. -/
theorem crcCommandFollowsItsRule : Obligations.CrcCommandFollowsItsRule := by
  unfold Obligations.CrcCommandFollowsItsRule
  intro s src len
  refine ⟨rfl, fun hfits => ?admitted, fun hfits => ?refused⟩
  case admitted => exact exec_crc_of_fits hfits
  case refused => rw [exec_crc_of_not_fits hfits, raise_access_eq_faulted]

end Sys2Proof.Machine
end

section
/-!
PROOFS of the family 42_filter.md. R163's formula is a cascade of comparisons; one lemma says which neighbour it selects and why,
with a strict inequality over every neighbour that comes earlier in the order of ties.
-/

namespace Sys2Proof.Machine

/-! ### The Paeth predictor (R163) -/

/-- R163: the distance of `v` from `p = a + b − c`. -/
def paethDist (a b c v : Nat) : Int := |(a : Int) + b - c - v|

/-- R163: the formula's comparisons are comparisons of distances. -/
theorem paeth_eq_ite (a b c : Nat) :
    paeth a b c =
      if paethDist a b c a ≤ paethDist a b c b ∧ paethDist a b c a ≤ paethDist a b c c then a
      else if paethDist a b c b ≤ paethDist a b c c then b else c := by
  simp only [paeth, paethDist, Int.abs_eq_natAbs, Int.ofNat_le]

/-- R163: the neighbour selected is strictly nearer than those before it in the order of ties, and no farther than those after
it. -/
theorem paeth_cases (a b c : Nat) :
    (paeth a b c = a ∧ paethDist a b c a ≤ paethDist a b c b ∧ paethDist a b c a ≤ paethDist a b c c) ∨
    (paeth a b c = b ∧ paethDist a b c b < paethDist a b c a ∧ paethDist a b c b ≤ paethDist a b c c) ∨
    (paeth a b c = c ∧ paethDist a b c c < paethDist a b c a ∧ paethDist a b c c < paethDist a b c b) := by
  rw [paeth_eq_ite]
  split_ifs with ha hb
  · exact .inl ⟨rfl, ha⟩
  · exact .inr (.inl ⟨rfl, by omega, hb⟩)
  · exact .inr (.inr ⟨rfl, by omega, by omega⟩)

/-- Settles O20: a neighbour with the least distance is not beaten strictly, so the first of them in the order `a`, `b`, `c` is the
one selected. -/
theorem paethPicksTheNearestNeighbour : Obligations.PaethPicksTheNearestNeighbour := by
  unfold Obligations.PaethPicksTheNearestNeighbour
  intro a b c p dist r
  obtain ⟨hr, hab, hac⟩ | ⟨hr, hba, hbc⟩ | ⟨hr, hca, hcb⟩ := paeth_cases a b c
  case inl =>
    rw [show r = a from hr]
    exact ⟨.inl rfl, ⟨le_rfl, hab, hac⟩, fun _ => rfl, fun hne => absurd rfl hne⟩
  case inr.inl =>
    rw [show r = b from hr]
    exact ⟨.inr (.inl rfl), ⟨hba.le, le_rfl, hbc⟩, fun heq => absurd heq hba.ne', fun _ _ => rfl⟩
  case inr.inr =>
    rw [show r = c from hr]
    exact ⟨.inr (.inr rfl), ⟨hca.le, hcb.le, le_rfl⟩, fun heq => absurd heq hca.ne', fun _ heq => absurd heq hcb.ne'⟩

end Sys2Proof.Machine
end

section
/-!
PROOFS of the family 45_compositor.md. OVER_LIT and OVER_NORM are one formula with two foregrounds, so what R253 says of them is
said once, of the formula.
-/

namespace Sys2Proof.Machine

/-! ### OVER's formula (R253) -/

/-- R252: full scale of a sample is above the sample value 1. -/
theorem one_lt_sampleMax {ss : Nat} (h : ss ≠ 0) : 1 < sampleMax ss := by
  have hpow : 2 ^ 8 ≤ 2 ^ (8 * ss) := Nat.pow_le_pow_right two_pos (by omega)
  unfold sampleMax
  omega

/-- R253: the model's natural number is the floor of the rational quotient. -/
theorem overBlend_eq_floor {ss f bg araw : Nat} (h : araw ≤ sampleMax ss) :
    (overBlend ss f bg araw : ℤ) =
      ⌊((araw : ℚ) * f + ((sampleMax ss : ℚ) - araw) * bg) / (sampleMax ss : ℚ)⌋ := by
  rw [overBlend, Int.natCast_ediv, ← Rat.floor_natCast_div_natCast, ← Nat.cast_sub h]
  norm_cast

/-- R253: a fully opaque source leaves the foreground. -/
theorem overBlend_of_opaque {ss : Nat} (h : ss ≠ 0) (f bg : Nat) : overBlend ss f bg (sampleMax ss) = f := by
  rw [overBlend, Nat.sub_self, Nat.zero_mul, Nat.add_zero, Nat.mul_div_cancel_left f (one_lt_sampleMax h).le]

/-- R253: a foreground below full scale, drawn with a weight above 0, takes a full-scale background below full scale. -/
theorem overBlend_over_full_lt {ss f araw : Nat} (hf : f < sampleMax ss) (hpos : 0 < araw) (h : araw ≤ sampleMax ss) :
    overBlend ss f (sampleMax ss) araw < sampleMax ss := by
  refine Nat.div_lt_of_lt_mul ?_
  calc araw * f + (sampleMax ss - araw) * sampleMax ss
      < araw * sampleMax ss + (sampleMax ss - araw) * sampleMax ss := by gcongr
    _ = sampleMax ss * sampleMax ss := by rw [← Nat.add_mul, Nat.add_sub_cancel' h]

/-- Settles O41: both instances are the formula, whose foreground on the alpha channel is 1 with OVER_LIT, and 1 is below full
scale. -/
theorem defaultOverIsTheLiteralFormula : Obligations.DefaultOverIsTheLiteralFormula := by
  unfold Obligations.DefaultOverIsTheLiteralFormula
  refine ⟨by decide, ?asymmetries, ?floors⟩
  case asymmetries =>
    intro ss hss fg bg araw
    have hne : ss ≠ 0 := by rintro rfl; simp at hss
    exact ⟨overBlend_of_opaque hne 1 bg, overBlend_over_full_lt (one_lt_sampleMax hne)⟩
  case floors =>
    intro ss isAlpha fg bg araw _ maxv quotient h
    exact ⟨overBlend_eq_floor h, overBlend_eq_floor h⟩

end Sys2Proof.Machine
end

section
/-!
PROOFS about 30_encoding.md: the encoder and the decoder are inverse to each other. Both directions go through the same three facts
of a descriptor: its opcode byte, its reserved fields, and the fields the command uses.
-/

namespace Sys2Proof

/-! ### The encoder gives what the decoder looks for -/

/-- R94: every encoding carries its opcode and leaves its reserved fields zero. -/
theorem opcodeByte_encode (i : Instr) : Laws.OpcodeByte.Statement i := by
  cases i with
  | halt => exact Laws.OpcodeByte.halt
  | nop => exact Laws.OpcodeByte.nop
  | setcur => exact Laws.OpcodeByte.setcur _
  | crc => exact Laws.OpcodeByte.crc _ _
  | crcchk => exact Laws.OpcodeByte.crcchk _ _
  | unpack => exact Laws.OpcodeByte.unpack _ _ _ _ _
  | pack => exact Laws.OpcodeByte.pack _ _ _ _ _
  | unfilt => exact Laws.OpcodeByte.unfilt _ _ _ _ _
  | filt => exact Laws.OpcodeByte.filt _ _ _ _ _ _
  | deint => exact Laws.OpcodeByte.deint _ _ _ _ _ _ _
  | intl => exact Laws.OpcodeByte.intl _ _ _ _ _ _ _ _
  | swap16 => exact Laws.OpcodeByte.swap16 _ _ _
  | palld => exact Laws.OpcodeByte.palld _ _
  | paltr => exact Laws.OpcodeByte.paltr _ _
  | palx => exact Laws.OpcodeByte.palx _ _ _ _ _ _
  | acfg => exact Laws.OpcodeByte.acfg _ _ _ _ _ _
  | compose => exact Laws.OpcodeByte.compose _ _ _ _ _ _ _ _

/-- R96: the reserved-field check passes when every reserved field is zero. -/
theorem firstReserved_eq_none {op : Opcode} {x : Descriptor} :
    firstReserved op x = none ↔ ∀ sl, sl ∉ op.used → sl.value x = 0 := by
  have hall : ∀ sl : Slot, sl ∈ slotOrder := by intro sl; cases sl <;> decide
  simp only [firstReserved, List.find?_eq_none, hall, true_imp_iff]
  exact forall_congr' fun sl => by by_cases h : sl ∈ op.used <;> simp [h]

/-- R93, R94: the fields of an encoding are the command's own. -/
theorem buildInstr_encode (i : Instr) : buildInstr (encode i) i.opcode = i := by
  cases i <;> simp [buildInstr, encode, Instr.opcode, commandWord, f1Field, f2Field, f3Field]

/-- R102 steps 3 to 5: what the decoder accepts. -/
theorem decode_eq_ok_iff {x : Descriptor} {i : Instr} :
    decode x = .ok i ↔
      ∃ op, Opcode.ofByte (opField x) = some op ∧ firstReserved op x = none ∧ buildInstr x op = i := by
  unfold decode
  cases Opcode.ofByte (opField x) with
  | none => simp
  | some op => cases h : firstReserved op x <;> simp [h]

theorem decode_encode (i : Instr) : decode (encode i) = .ok i := by
  obtain ⟨hop, hzero⟩ := opcodeByte_encode i
  refine decode_eq_ok_iff.mpr ⟨i.opcode, by rw [hop, Opcode.ofByte_byte], ?_, buildInstr_encode i⟩
  exact firstReserved_eq_none.mpr fun sl hsl => hzero sl (by cases sl <;> decide) hsl

/-! ### A descriptor is made of its fields -/

/-- R90: a descriptor is its eight words. -/
theorem descriptor_eq_words (x : Descriptor) : x = #v[x[0], x[1], x[2], x[3], x[4], x[5], x[6], x[7]] := by
  apply Vector.ext
  intro k hk
  interval_cases k <;> rfl

/-- R91: the command word is made of its four bytes. -/
theorem commandWord_eq {op : Opcode} {x : Descriptor} (h : op.byte = opField x) :
    commandWord op (f1Field x) (f2Field x) (f3Field x) = x[0] := by
  rw [commandWord, h]
  exact be32_wordByte x[0]

/-- The descriptor that a whole set of fields makes. -/
theorem descriptorOfBytes_encodeBytes (i : Instr) (rest : List Byte) :
    descriptorOfBytes (encodeBytes i ++ rest) = some (encode i) := by
  rw [encodeBytes, descriptor_eq_words (encode i)]
  exact descriptorOfBytes_descriptorBytes _ _ _ _ _ _ _ _ rest

/-- A field that is zero as a number is the zero field. -/
theorem eq_zero_of_toNat {w : Nat} {b : BitVec w} (h : b.toNat = 0) : b = 0#w := BitVec.eq_of_toNat_eq (by simpa using h)

/-- R94, R96: a descriptor with an assigned opcode and zeros in its reserved fields is the encoding of the command it makes. -/
theorem encode_buildInstr {op : Opcode} {x : Descriptor} (hop : op.byte = opField x)
    (hzero : ∀ sl, sl ∉ op.used → sl.value x = 0) : encode (buildInstr x op) = x := by
  have hword := commandWord_eq hop
  have h1 := fun h => eq_zero_of_toNat (hzero .f1 h)
  have h2 := fun h => eq_zero_of_toNat (hzero .f2 h)
  have h3 := fun h => eq_zero_of_toNat (hzero .f3 h)
  have w1 := fun h => eq_zero_of_toNat (hzero .w1 h)
  have w2 := fun h => eq_zero_of_toNat (hzero .w2 h)
  have w3 := fun h => eq_zero_of_toNat (hzero .w3 h)
  have w4 := fun h => eq_zero_of_toNat (hzero .w4 h)
  have w5 := fun h => eq_zero_of_toNat (hzero .w5 h)
  have w6 := fun h => eq_zero_of_toNat (hzero .w6 h)
  have w7 := fun h => eq_zero_of_toNat (hzero .w7 h)
  refine .trans ?_ (descriptor_eq_words x).symm
  clear hzero hop
  cases op <;> simp_all [encode, buildInstr, Opcode.used]

/-! ### The obligations -/

/-- Settles O2: the bytes of an encoding are read back as its words, and the decoder takes those apart field by field. -/
theorem encodeThenDecodeGivesEveryCommandBack : Obligations.EncodeThenDecodeGivesEveryCommandBack := by
  unfold Obligations.EncodeThenDecodeGivesEveryCommandBack
  intro i rest
  have hlength : (encodeBytes i).length = 32 := length_descriptorBytes _
  simp [decodeBytes, descriptorOfBytes_encodeBytes, decode_encode, ← hlength]

/-- Settles O3: an accepted descriptor has an assigned opcode and zeros in its reserved fields. -/
theorem everyDescriptorThatDecodesIsAnEncoding : Obligations.EveryDescriptorThatDecodesIsAnEncoding := by
  unfold Obligations.EveryDescriptorThatDecodesIsAnEncoding
  intro x i h
  obtain ⟨op, hop, hzero, rfl⟩ := decode_eq_ok_iff.mp h
  exact encode_buildInstr (Opcode.byte_of_ofByte hop) (firstReserved_eq_none.mp hzero)

/-- Settles O1: the spec's bytes are those of the commands' encodings. -/
theorem specDescriptorsDecode : Obligations.SpecDescriptorsDecode := by
  unfold Obligations.SpecDescriptorsDecode
  exact ⟨rfl, rfl, rfl, rfl, rfl, rfl⟩

end Sys2Proof
end

section
/-!
PROOFS about the checks (20_memory.md rules R66 and R67, 60_exceptions.md rules R281 and R296). The claims write a list of checks as
a list of reports, the model as a list of faults; here each check of the model is shown to be its report, so that a command's whole
check is the claims' first report. Both what a failing check records and what a passing check says follow from that.
-/

namespace Sys2Proof.Machine

open Sys2Proof.Claims

/-! ### Faults as reports -/

/-- R281: a fault as its code and information words. -/
def Raise.report (f : Raise) : Report := ⟨f.kind.code.toNat, f.info0, f.info1, f.info2⟩

/-- R300: fault entry is the claims' fault entry. -/
theorem raise_eq_faulted (s : State) (f : Raise) : s.raise f = faulted s f.report := by
  simp [State.raise, faulted, Raise.report]

/-- A check as the report it makes. -/
def reported (c : Option Raise) : Option Report := c.map Raise.report

@[simp] theorem reported_none : reported none = none := rfl

@[simp] theorem reported_some (f : Raise) : reported (some f) = some f.report := rfl

@[simp] theorem reported_eq_none {c : Option Raise} : reported c = none ↔ c = none := Option.map_eq_none_iff

@[simp] theorem reported_ite (p : Prop) [Decidable p] (c d : Option Raise) :
    reported (if p then c else d) = if p then reported c else reported d := apply_ite reported p c d

@[simp] theorem firstOf_nil : firstOf [] = none := rfl

@[simp] theorem firstOf_cons (r : Option Report) (rs : List (Option Report)) : firstOf (r :: rs) = r.or (firstOf rs) := by
  cases r <;> rfl

@[simp] theorem failing_eq_none {bad : Bool} {r : Report} : failing bad r = none ↔ bad = false := by
  cases bad <;> simp [failing]

theorem firstRaise_cons (c : Option Raise) (cs : List (Option Raise)) : firstRaise (c :: cs) = c.or (firstRaise cs) := by
  cases c <;> rfl

/-- R296: the first failing check makes the first report. -/
@[simp] theorem reported_firstRaise (cs : List (Option Raise)) : reported (firstRaise cs) = firstOf (cs.map reported) := by
  induction cs with
  | nil => rfl
  | cons c cs ih => cases c <;> simp [firstRaise, ih]

/-- A check that must hold, as the report of its failure. -/
theorem reported_require (c : Bool) (f : Raise) : reported (require c f) = failing (!c) f.report := by cases c <;> rfl

/-! ### Ranges (R66, R67) -/

@[simp] theorem accessFrom_nil (size k : Nat) : accessFrom size k [] = none := rfl

@[simp] theorem overlapWith_nil (i j : Nat) (r : MemRange) : overlapWith i r j [] = none := rfl

@[simp] theorem overlapFrom_nil (i : Nat) : overlapFrom i [] = none := rfl

/-- R66: one range after another, each as its report. -/
theorem reported_accessFrom_cons (s : State) (k : Nat) (a : Word) (n : Nat) (v : Bool) (rs : List MemRange) :
    reported (accessFrom s.config.memSize k (⟨a.toNat, n, v⟩ :: rs)) =
      (accessReport s a n k).or (reported (accessFrom s.config.memSize (k + 1) rs)) := by
  rw [accessFrom, reported_ite, MemRange.admitted]
  by_cases h : Fits s a n
  · simp [accessReport, failing, h]
  · simp only [accessReport, failing, h, decide_false, Bool.not_false, if_true, Bool.false_eq_true, if_false]
    rfl

/-- R67: range `i` against the ranges that follow, each pair with a written range as its report. -/
theorem reported_overlapWith_cons (i j : Nat) (a b : Word) (n m : Nat) (v : Bool) (rs : List MemRange) :
    reported (overlapWith i ⟨a.toNat, n, v⟩ j (⟨b.toNat, m, true⟩ :: rs)) =
      (overlapReport a n b m i j).or (reported (overlapWith i ⟨a.toNat, n, v⟩ (j + 1) rs)) := by
  have hiff : MemRange.overlaps ⟨a.toNat, n, v⟩ ⟨b.toNat, m, true⟩ = true ↔ ¬Apart a n b m := by
    rw [MemRange.overlaps_iff]
    dsimp only
    omega
  by_cases h : Apart a n b m
  · have ho : MemRange.overlaps ⟨a.toNat, n, v⟩ ⟨b.toNat, m, true⟩ = false := by simpa [h] using hiff
    simp [overlapWith, ho, overlapReport, failing, h]
  · simp only [overlapWith, Bool.or_true, hiff.mpr h, Bool.and_self, if_true, overlapReport, failing, h, decide_false,
      Bool.not_false]
    rfl

theorem reported_overlapFrom_cons (i : Nat) (r : MemRange) (rs : List MemRange) :
    reported (overlapFrom i (r :: rs)) = (reported (overlapWith i r (i + 1) rs)).or (reported (overlapFrom (i + 1) rs)) := by
  rw [overlapFrom]
  cases overlapWith i r (i + 1) rs <;> simp

/-- R66, R67: the range checks of a command with one source and one destination. -/
@[simp] theorem reported_ranges (s : State) (src dst : Word) (n m : Nat) :
    (reported (checkRanges s [readRange src n, writeRange dst m])).or
        (reported (checkOverlap [readRange src n, writeRange dst m])) =
      firstOf (rangeReports s src n dst m) := by
  simp [checkRanges, checkOverlap, readRange, writeRange, reported_accessFrom_cons, reported_overlapFrom_cons,
    reported_overlapWith_cons, rangeReports, Option.or_assoc]

/-- R66: the range check of a command that only reads. -/
@[simp] theorem reported_readRange (s : State) (a : Word) (n : Nat) :
    reported (checkRanges s [readRange a n]) = accessReport s a n 1 := by
  simp [checkRanges, readRange, reported_accessFrom_cons]

/-- R66, R67: four ranges, of which the last three are written, are checked for access in order and then for overlap pair by pair. -/
theorem reported_four_ranges (s : State) (a b c d : Word) (n m : Nat) :
    (reported (checkRanges s [readRange a n, writeRange b m, writeRange c m, writeRange d m])).or
        (reported (checkOverlap [readRange a n, writeRange b m, writeRange c m, writeRange d m])) =
      firstOf [accessReport s a n 1, accessReport s b m 2, accessReport s c m 3, accessReport s d m 4,
        overlapReport a n b m 1 2, overlapReport a n c m 1 3, overlapReport a n d m 1 4,
        overlapReport b m c m 2 3, overlapReport b m d m 2 4, overlapReport c m d m 3 4] := by
  simp [checkRanges, checkOverlap, readRange, writeRange, reported_accessFrom_cons, reported_overlapFrom_cons,
    reported_overlapWith_cons, Option.or_assoc]

@[simp] theorem accessReport_eq_none {s : State} {a : Word} {n k : Nat} : accessReport s a n k = none ↔ Fits s a n := by
  rw [accessReport, failing_eq_none, Bool.not_eq_false', decide_eq_true_iff]

@[simp] theorem overlapReport_eq_none {a b : Word} {n m i j : Nat} : overlapReport a n b m i j = none ↔ Apart a n b m := by
  rw [overlapReport, failing_eq_none, Bool.not_eq_false', decide_eq_true_iff]

/-- The range checks pass exactly when the claims call the two ranges ready. -/
theorem firstOf_rangeReports_eq_none {s : State} {src dst : Word} {n m : Nat} :
    firstOf (rangeReports s src n dst m) = none ↔ Ready s src n dst m := by
  simp [rangeReports, Option.or_eq_none_iff]

/-! ### Field checks (R97) -/

/-- A check that must not exceed a bound, as the report of its failure. -/
theorem reported_require_le (n bound : Nat) (f : Raise) :
    reported (require (decide (n ≤ bound)) f) = failing (decide (bound < n)) f.report := by
  rw [reported_require, ← decide_not]
  simp only [Nat.not_le]

@[simp] theorem reported_checkSubByteDepth (d : Byte) : reported (checkSubByteDepth d) = depthReport d [1, 2, 4] :=
  reported_require _ _

@[simp] theorem reported_checkImageDepth (d : Byte) : reported (checkImageDepth d) = depthReport d [1, 2, 4, 8, 16] :=
  reported_require _ _

@[simp] theorem reported_checkIndexDepth (d : Byte) : reported (checkIndexDepth d) = depthReport d [1, 2, 4, 8] :=
  reported_require _ _

@[simp] theorem reported_checkSampleBytes (ss : Byte) : reported (checkSampleBytes ss) = depthReport ss [1, 2] :=
  reported_require _ _

@[simp] theorem reported_checkChannels (c : Byte) : reported (checkChannels c) = channelsReport c := reported_require _ _

@[simp] theorem reported_checkSize (w h : Word) : reported (checkSize w h) = sizeReport w h := by
  rw [checkSize, reported_require, sizeReport, ← decide_not]
  congr 1
  rw [decide_eq_decide]
  omega

@[simp] theorem reported_checkInterlace (il : Byte) :
    reported (checkInterlace il) = failing (decide (1 < il.toNat)) ⟨11, il.toNat, 0, 0⟩ := reported_require_le _ _ _

@[simp] theorem reported_checkBpp (bpp : Byte) :
    reported (checkBpp bpp) = failing (!decide (1 ≤ bpp.toNat ∧ bpp.toNat ≤ 8)) ⟨8, bpp.toNat, 0, 1⟩ := reported_require _ _

@[simp] theorem reported_checkKind (kind : Byte) :
    reported (checkKind kind) = failing (decide (4 < kind.toNat)) ⟨10, kind.toNat, 0xFFFFFFFF, 0⟩ :=
  reported_require_le _ _ _

@[simp] theorem reported_checkDispose (d : Byte) :
    reported (checkDispose d) = failing (decide (2 < d.toNat)) ⟨16, d.toNat, 0, 0⟩ := reported_require_le _ _ _

@[simp] theorem reported_checkBlend (b : Byte) :
    reported (checkBlend b) = failing (decide (1 < b.toNat)) ⟨17, b.toNat, 0, 0⟩ := reported_require_le _ _ _

@[simp] theorem reported_checkLength (found : Word) (expected : Nat) :
    reported (checkLength found expected) =
      failing (found.toNat != expected) ⟨9, found.toNat, min expected (2 ^ 32 - 1), 0⟩ := by
  rw [checkLength, reported_require, bne, beq_eq_decide]
  rfl

theorem depthReport_eq_none {d : Byte} {legal : List Nat} : depthReport d legal = none ↔ d.toNat ∈ legal := by
  simp [depthReport]

theorem channelsReport_eq_none {c : Byte} : channelsReport c = none ↔ 1 ≤ c.toNat ∧ c.toNat ≤ 4 := by
  simp [channelsReport]

theorem sizeReport_eq_none {w h : Word} : sizeReport w h = none ↔ 1 ≤ w.toNat ∧ 1 ≤ h.toNat := by
  simp only [sizeReport, failing_eq_none, decide_eq_false_iff_not]
  omega

/-! ### The whole check of each command -/

/-- A command whose check makes a report ends in fault entry with that report. -/
theorem Answers.eq_faulted {o : Host.Outcome State Fault Refusal} {s : State} {check : Option Raise} {P : State → Prop}
    {rs : List (Option Report)} {r : Report} (h : Answers o s check P) (hcheck : reported check = firstOf rs)
    (hr : firstOf rs = some r) : o = .next (faulted s r) := by
  obtain ⟨f, hf, hfr⟩ := Option.map_eq_some_iff.mp (hcheck.trans hr)
  rw [h.eq_raise hf, raise_eq_faulted, hfr]

section
variable (s : State) (f1 f2 f3 : Byte) (src a b dst srclen : Word)

/-- R142: the check of UNPACK. -/
theorem reported_unpackCheck :
    reported (unpackCheck f1 src a b dst s) =
      firstOf (depthReport f1 [1, 2, 4] ::
        rangeReports s src (b.toNat * divCeil (a.toNat * f1.toNat) 8) dst (b.toNat * a.toNat)) := by
  simp [unpackCheck, unpackRanges, packedBytes]

/-- R143: the check of PACK. -/
theorem reported_packCheck :
    reported (packCheck f1 src a b dst s) =
      firstOf (depthReport f1 [1, 2, 4] ::
        rangeReports s src (b.toNat * a.toNat) dst (b.toNat * divCeil (a.toNat * f1.toNat) 8)) := by
  simp [packCheck, packRanges, packedBytes]

/-- R170: the check of UNFILT. -/
theorem reported_unfiltCheck :
    reported (unfiltCheck f1 src a b dst s) =
      firstOf (failing (!decide (1 ≤ f1.toNat ∧ f1.toNat ≤ 8)) ⟨8, f1.toNat, 0, 1⟩ ::
        rangeReports s src (b.toNat * (a.toNat + 1)) dst (b.toNat * a.toNat)) := by
  simp [unfiltCheck, unfiltRanges]

/-- R175: the check of FILT. -/
theorem reported_filtCheck :
    reported (filtCheck f1 f2 src a b dst s) =
      firstOf (failing (!decide (1 ≤ f1.toNat ∧ f1.toNat ≤ 8)) ⟨8, f1.toNat, 0, 1⟩ ::
        failing (decide (4 < f2.toNat)) ⟨10, f2.toNat, 0xFFFFFFFF, 0⟩ ::
        rangeReports s src (b.toNat * a.toNat) dst (b.toNat * (a.toNat + 1))) := by
  simp [filtCheck, filtRanges]

/-- R199: the check of SWAP16. -/
theorem reported_swap16Check :
    reported (swap16Check src a dst s) = firstOf (rangeReports s src (2 * a.toNat) dst (2 * a.toNat)) := by
  simp [swap16Check, swap16Ranges]

/-- R196: the check of DEINT. -/
theorem reported_deintCheck :
    reported (deintCheck f1 f2 f3 src a b dst s) =
      firstOf ([depthReport f1 [1, 2, 4, 8, 16], channelsReport f2, failing (decide (1 < f3.toNat)) ⟨11, f3.toNat, 0, 0⟩,
          sizeReport a b] ++
        rangeReports s src (streamLen f1.toNat f2.toNat f3.toNat a.toNat b.toNat) dst
          (a.toNat * b.toNat * pixBytes f1.toNat f2.toNat)) := by
  simp [deintCheck, deintRanges, rasterBytes]

/-- R197: the check of INTL. -/
theorem reported_intlCheck :
    reported (intlCheck f1 f2 f3 src a b dst srclen s) =
      firstOf ([depthReport f1 [1, 2, 4, 8, 16], channelsReport f2, failing (decide (1 < f3.toNat)) ⟨11, f3.toNat, 0, 0⟩,
          sizeReport a b] ++
        failing (srclen.toNat != a.toNat * b.toNat * pixBytes f1.toNat f2.toNat)
          ⟨9, srclen.toNat, min (a.toNat * b.toNat * pixBytes f1.toNat f2.toNat) (2 ^ 32 - 1), 0⟩ ::
        rangeReports s src (a.toNat * b.toNat * pixBytes f1.toNat f2.toNat) dst
          (streamLen f1.toNat f2.toNat f3.toNat a.toNat b.toNat)) := by
  simp [intlCheck, intlRanges, rasterBytes]

/-- R225: the check of PALX. -/
theorem reported_palxCheck :
    reported (palxCheck f1 src a b dst srclen s) =
      firstOf ([depthReport f1 [1, 2, 4, 8], sizeReport a b, failing (s.pal.paln == 0) ⟨13, 0, 0, 0⟩,
          failing (srclen.toNat != b.toNat * divCeil (a.toNat * f1.toNat) 8)
            ⟨9, srclen.toNat, min (b.toNat * divCeil (a.toNat * f1.toNat) 8) (2 ^ 32 - 1), 0⟩] ++
        rangeReports s src (b.toNat * divCeil (a.toNat * f1.toNat) 8) dst (a.toNat * b.toNat * s.pal.palc.toNat)) := by
  have hpaln : reported (require (decide (1 ≤ s.pal.paln.toNat)) raiseNoPalette) = failing (s.pal.paln == 0) ⟨13, 0, 0, 0⟩ := by
    rw [reported_require, ← decide_not, beq_eq_decide]
    congr 1
    rw [decide_eq_decide, ← BitVec.toNat_inj]
    simp
  simp [palxCheck, palxRanges, indexRowBytes, hpaln]

/-- R221: the check of PALLD. -/
theorem reported_palldCheck :
    reported (palldCheck src a s) =
      firstOf [failing (a.toNat % 3 != 0) ⟨12, a.toNat, 1, 0⟩, failing (decide (256 < a.toNat / 3)) ⟨12, a.toNat, 2, 0⟩,
        accessReport s src a.toNat 1] := by
  have htriples : reported (require (decide (a.toNat % 3 = 0)) (raisePalLength a 1)) =
      failing (a.toNat % 3 != 0) ⟨12, a.toNat, 1, 0⟩ := by rw [reported_require, bne, beq_eq_decide]; rfl
  have hentries : reported (require (decide (a.toNat / 3 ≤ 256)) (raisePalLength a 2)) =
      failing (decide (256 < a.toNat / 3)) ⟨12, a.toNat, 2, 0⟩ := reported_require_le _ _ _
  simp only [palldCheck, palldRanges, reported_firstRaise, List.map_cons, List.map_nil, htriples, hentries, reported_readRange]

/-- R223: the check of PALTR. -/
theorem reported_paltrCheck :
    reported (paltrCheck src a s) =
      firstOf [failing (decide (s.pal.paln.toNat < a.toNat)) ⟨15, a.toNat, s.pal.paln.toNat, 0⟩, accessReport s src a.toNat 1] := by
  have hcount : reported (require (decide (a.toNat ≤ s.pal.paln.toNat)) (raiseTrnsCount a s.pal.paln)) =
      failing (decide (s.pal.paln.toNat < a.toNat)) ⟨15, a.toNat, s.pal.paln.toNat, 0⟩ := reported_require_le _ _ _
  simp [paltrCheck, paltrRanges, hcount]

/-- R242: the check of ACFG. -/
theorem reported_acfgCheck :
    reported (acfgCheck f1 f2 a b) = firstOf [channelsReport f1, depthReport f2 [1, 2], sizeReport a b] := by
  simp [acfgCheck]

end

/-- R250, R254: the check of COMPOSE. -/
theorem reported_composeCheck (s : State) (dispose blend : Byte) (src fw fh out x y : Word) :
    let c := s.comp
    let e := effectiveRect c blend fw fh x y
    let n := e.ew * e.eh * c.px
    let later := c.aframes != 0
    reported (composeCheck dispose blend src fw fh out x y s) =
      firstOf [failing (decide (2 < dispose.toNat)) ⟨16, dispose.toNat, 0, 0⟩,
        failing (decide (1 < blend.toNat)) ⟨17, blend.toNat, 0, 0⟩, failing (c.aw == 0) ⟨19, 0, 0, 0⟩,
        failing (later && decide (fw.toNat = 0 ∨ fh.toNat = 0)) ⟨8, fw.toNat, fh.toNat, 3⟩,
        failing (later && decide (c.aw.toNat < x.toNat + fw.toNat ∨ c.ah.toNat < y.toNat + fh.toNat)) ⟨8, x.toNat, y.toNat, 4⟩,
        accessReport s src n 1, accessReport s c.acanvas c.cb 2, accessReport s c.asnap c.cb 3, accessReport s out c.cb 4,
        overlapReport src n c.acanvas c.cb 1 2, overlapReport src n c.asnap c.cb 1 3, overlapReport src n out c.cb 1 4,
        overlapReport c.acanvas c.cb c.asnap c.cb 2 3, overlapReport c.acanvas c.cb out c.cb 2 4,
        overlapReport c.asnap c.cb out c.cb 3 4] := by
  intro c e n later
  have hcanvas : reported (require (decide (c.aw ≠ 0)) raiseNoCanvas) = failing (c.aw == 0) ⟨19, 0, 0, 0⟩ := by
    rw [reported_require, ← decide_not, beq_eq_decide]; simp only [ne_eq, Decidable.not_not]; rfl
  have hsize : reported (require (decide (c.aframes = 0) || decide (1 ≤ fw.toNat ∧ 1 ≤ fh.toNat))
      (raiseBadGeometry fw.toNat fh.toNat 3)) =
      failing (later && decide (fw.toNat = 0 ∨ fh.toNat = 0)) ⟨8, fw.toNat, fh.toNat, 3⟩ := by
    rw [reported_require, Bool.not_or, ← decide_not, ← decide_not]
    congr 2
    · simp [later, bne, beq_eq_decide]
    · rw [decide_eq_decide]; omega
  have hplace : reported (require (decide (c.aframes = 0) ||
      decide (x.toNat + fw.toNat ≤ c.aw.toNat ∧ y.toNat + fh.toNat ≤ c.ah.toNat)) (raiseBadGeometry x.toNat y.toNat 4)) =
      failing (later && decide (c.aw.toNat < x.toNat + fw.toNat ∨ c.ah.toNat < y.toNat + fh.toNat)) ⟨8, x.toNat, y.toNat, 4⟩ := by
    rw [reported_require, Bool.not_or, ← decide_not, ← decide_not]
    congr 2
    · simp [later, bne, beq_eq_decide]
    · rw [decide_eq_decide]; omega
  simp only [composeCheck, composeRanges, reported_firstRaise, List.map_cons, List.map_nil, firstOf_cons, firstOf_nil,
    Option.or_none, reported_checkDispose, reported_checkBlend]
  rw [hcanvas, hsize, hplace, reported_four_ranges]
  simp only [firstOf_cons, firstOf_nil, Option.or_none]
  rfl

/-! ### When each check passes -/

section
variable {s : State} {f1 f2 f3 : Byte} {src a b dst srclen : Word}

theorem unpackCheck_eq_none :
    unpackCheck f1 src a b dst s = none ↔
      f1.toNat ∈ [1, 2, 4] ∧ Ready s src (b.toNat * divCeil (a.toNat * f1.toNat) 8) dst (b.toNat * a.toNat) := by
  rw [← reported_eq_none, reported_unpackCheck, firstOf_cons, Option.or_eq_none_iff, depthReport_eq_none,
    firstOf_rangeReports_eq_none]

theorem packCheck_eq_none :
    packCheck f1 src a b dst s = none ↔
      f1.toNat ∈ [1, 2, 4] ∧ Ready s src (b.toNat * a.toNat) dst (b.toNat * divCeil (a.toNat * f1.toNat) 8) := by
  rw [← reported_eq_none, reported_packCheck, firstOf_cons, Option.or_eq_none_iff, depthReport_eq_none,
    firstOf_rangeReports_eq_none]

theorem unfiltCheck_eq_none :
    unfiltCheck f1 src a b dst s = none ↔
      (1 ≤ f1.toNat ∧ f1.toNat ≤ 8) ∧ Ready s src (b.toNat * (a.toNat + 1)) dst (b.toNat * a.toNat) := by
  rw [← reported_eq_none, reported_unfiltCheck, firstOf_cons, Option.or_eq_none_iff, firstOf_rangeReports_eq_none,
    failing_eq_none, Bool.not_eq_false', decide_eq_true_iff]

theorem filtCheck_eq_none :
    filtCheck f1 f2 src a b dst s = none ↔
      (1 ≤ f1.toNat ∧ f1.toNat ≤ 8) ∧ f2.toNat ≤ 4 ∧ Ready s src (b.toNat * a.toNat) dst (b.toNat * (a.toNat + 1)) := by
  rw [← reported_eq_none, reported_filtCheck, firstOf_cons, firstOf_cons, Option.or_eq_none_iff, Option.or_eq_none_iff,
    firstOf_rangeReports_eq_none, failing_eq_none, failing_eq_none, Bool.not_eq_false', decide_eq_true_iff,
    decide_eq_false_iff_not, Nat.not_lt]

theorem swap16Check_eq_none :
    swap16Check src a dst s = none ↔ Ready s src (2 * a.toNat) dst (2 * a.toNat) := by
  rw [← reported_eq_none, reported_swap16Check, firstOf_rangeReports_eq_none]

theorem deintCheck_eq_none :
    deintCheck f1 f2 f3 src a b dst s = none ↔
      LegalImage f1 f2 f3 a b ∧
        Ready s src (streamLen f1.toNat f2.toNat f3.toNat a.toNat b.toNat) dst
          (a.toNat * b.toNat * pixBytes f1.toNat f2.toNat) := by
  rw [← reported_eq_none, reported_deintCheck]
  simp only [List.cons_append, List.nil_append, firstOf_cons, Option.or_eq_none_iff, firstOf_rangeReports_eq_none,
    depthReport_eq_none, channelsReport_eq_none, sizeReport_eq_none, failing_eq_none, decide_eq_false_iff_not, Nat.not_lt,
    LegalImage, and_assoc]

theorem intlCheck_eq_none :
    intlCheck f1 f2 f3 src a b dst srclen s = none ↔
      LegalImage f1 f2 f3 a b ∧ srclen.toNat = a.toNat * b.toNat * pixBytes f1.toNat f2.toNat ∧
        Ready s src (a.toNat * b.toNat * pixBytes f1.toNat f2.toNat) dst
          (streamLen f1.toNat f2.toNat f3.toNat a.toNat b.toNat) := by
  rw [← reported_eq_none, reported_intlCheck]
  simp only [List.cons_append, List.nil_append, firstOf_cons, Option.or_eq_none_iff, firstOf_rangeReports_eq_none,
    depthReport_eq_none, channelsReport_eq_none, sizeReport_eq_none, failing_eq_none, decide_eq_false_iff_not, Nat.not_lt,
    bne_eq_false_iff_eq, LegalImage, and_assoc]

theorem palxCheck_eq_none :
    palxCheck f1 src a b dst srclen s = none ↔
      f1.toNat ∈ [1, 2, 4, 8] ∧ (1 ≤ a.toNat ∧ 1 ≤ b.toNat) ∧ s.pal.paln ≠ 0 ∧
        srclen.toNat = b.toNat * divCeil (a.toNat * f1.toNat) 8 ∧
        Ready s src (b.toNat * divCeil (a.toNat * f1.toNat) 8) dst (a.toNat * b.toNat * s.pal.palc.toNat) := by
  rw [← reported_eq_none, reported_palxCheck]
  simp only [List.cons_append, List.nil_append, firstOf_cons, Option.or_eq_none_iff, firstOf_rangeReports_eq_none,
    depthReport_eq_none, sizeReport_eq_none, failing_eq_none, bne_eq_false_iff_eq, beq_eq_false_iff_ne]

theorem palldCheck_eq_none :
    palldCheck src a s = none ↔ a.toNat % 3 = 0 ∧ a.toNat / 3 ≤ 256 ∧ Fits s src a.toNat := by
  rw [← reported_eq_none, reported_palldCheck]
  simp only [firstOf_cons, firstOf_nil, Option.or_none, Option.or_eq_none_iff, failing_eq_none, bne_eq_false_iff_eq,
    decide_eq_false_iff_not, Nat.not_lt, accessReport_eq_none]

theorem paltrCheck_eq_none : paltrCheck src a s = none ↔ a.toNat ≤ s.pal.paln.toNat ∧ Fits s src a.toNat := by
  rw [← reported_eq_none, reported_paltrCheck]
  simp only [firstOf_cons, firstOf_nil, Option.or_none, Option.or_eq_none_iff, failing_eq_none, decide_eq_false_iff_not,
    Nat.not_lt, accessReport_eq_none]

theorem acfgCheck_eq_none :
    acfgCheck f1 f2 a b = none ↔
      (1 ≤ f1.toNat ∧ f1.toNat ≤ 4) ∧ f2.toNat ∈ [1, 2] ∧ 1 ≤ a.toNat ∧ 1 ≤ b.toNat := by
  rw [← reported_eq_none, reported_acfgCheck]
  simp only [firstOf_cons, firstOf_nil, Option.or_none, Option.or_eq_none_iff, channelsReport_eq_none, depthReport_eq_none,
    sizeReport_eq_none]

end

theorem composeCheck_eq_none {s : State} {dispose blend : Byte} {src fw fh out x y : Word} :
    composeCheck dispose blend src fw fh out x y s = none ↔ ComposeReady s dispose blend src fw fh out x y := by
  rw [← reported_eq_none, reported_composeCheck]
  simp only [firstOf_cons, firstOf_nil, Option.or_none, Option.or_eq_none_iff, failing_eq_none, decide_eq_false_iff_not,
    Nat.not_lt, accessReport_eq_none, overlapReport_eq_none, beq_eq_false_iff_ne, Bool.and_eq_false_iff, bne_eq_false_iff_eq]
  have hgeometry : ((s.comp.aframes = 0 ∨ ¬(fw.toNat = 0 ∨ fh.toNat = 0)) ∧
      (s.comp.aframes = 0 ∨ ¬(s.comp.aw.toNat < x.toNat + fw.toNat ∨ s.comp.ah.toNat < y.toNat + fh.toNat))) ↔
      (s.comp.aframes ≠ 0 → 1 ≤ fw.toNat ∧ 1 ≤ fh.toNat ∧ x.toNat + fw.toNat ≤ s.comp.aw.toNat ∧
        y.toNat + fh.toNat ≤ s.comp.ah.toNat) := by
    by_cases hfirst : s.comp.aframes = 0
    · simp [hfirst]
    · simp only [hfirst, false_or, ne_eq, not_false_eq_true, true_imp_iff]
      omega
  rw [ComposeReady, ← hgeometry]
  simp only [and_assoc]

/-! ### The obligations -/

/-- Settles O42: the five checks are the claims' lists. -/
theorem rowCommandsRecordTheFirstFailingCheck : Obligations.RowCommandsRecordTheFirstFailingCheck := by
  unfold Obligations.RowCommandsRecordTheFirstFailingCheck
  intro s f1 f2 src a b dst r d bppReport
  exact ⟨(execUnpack_answers f1 src a b dst s).eq_faulted (reported_unpackCheck s f1 src a b dst),
    (execPack_answers f1 src a b dst s).eq_faulted (reported_packCheck s f1 src a b dst),
    (execUnfilt_answers f1 src a b dst s).eq_faulted (reported_unfiltCheck s f1 src a b dst),
    (execFilt_answers f1 f2 src a b dst s).eq_faulted (reported_filtCheck s f1 f2 src a b dst),
    (execSwap16_answers src a dst s).eq_faulted (reported_swap16Check s src a dst)⟩

/-- Settles O43: the three checks are the claims' lists. -/
theorem imageCommandsRecordTheFirstFailingCheck : Obligations.ImageCommandsRecordTheFirstFailingCheck := by
  unfold Obligations.ImageCommandsRecordTheFirstFailingCheck
  intro s depth channels il src w h dst srclen r d c n len rbw image length
  exact ⟨(execDeint_answers depth channels il src w h dst s).eq_faulted (reported_deintCheck s depth channels il src w h dst),
    (execIntl_answers depth channels il src w h dst srclen s).eq_faulted (reported_intlCheck s depth channels il src w h dst srclen),
    (execPalx_answers depth src w h dst srclen s).eq_faulted (reported_palxCheck s depth src w h dst srclen)⟩

/-- Settles O44: the three checks are the claims' lists. -/
theorem setupCommandsRecordTheFirstFailingCheck : Obligations.SetupCommandsRecordTheFirstFailingCheck := by
  unfold Obligations.SetupCommandsRecordTheFirstFailingCheck
  intro s channels ss src n w h snap r
  exact ⟨(execPalld_answers src n s).eq_faulted (reported_palldCheck s src n),
    (execPaltr_answers src n s).eq_faulted (reported_paltrCheck s src n),
    (execAcfg_answers channels ss src w h snap s).eq_faulted (reported_acfgCheck channels ss w h)⟩

/-- Settles O45: the check is the claims' list. -/
theorem composeRecordsTheFirstFailingCheck : Obligations.ComposeRecordsTheFirstFailingCheck := by
  unfold Obligations.ComposeRecordsTheFirstFailingCheck
  intro s dispose blend src fw fh out x y r c e n later
  exact (execCompose_answers dispose blend src fw fh out x y s).eq_faulted
    (reported_composeCheck s dispose blend src fw fh out x y)

end Sys2Proof.Machine
end

section
/-!
PROOFS about the fetch and the step (30_encoding.md rule R102). One lemma ties the words the fetch reads to the decoder on bytes; the
branches of the step are said once each, and the obligations are those branches in the claims' words.
-/

namespace Sys2Proof.Machine

open Sys2Proof.Claims

/-! ### The branches of a step (R102, R310) -/

/-- R310: a stopped engine's step answers the same state. -/
theorem step_of_not_busy {s : State} (h : s.status ≠ .busy) : step s = .next s := by
  simp [step, State.isBusy, h]

/-- R102 step 1: a descriptor that ends above MEMSIZE faults and nothing is fetched. -/
theorem step_of_not_fits {s : State} (hbusy : s.status = .busy) (h : s.config.memSize < s.cp.toNat + 32) :
    step s = .next (s.raise (fetchFault s)) := by
  have hfetch : s.canFetch = false := by simpa [State.canFetch] using h
  simp [step, State.isBusy, hbusy, hfetch]

/-- R102 step 6: a descriptor inside MEM that decodes is executed on the fetched state. -/
theorem step_of_decode_ok {s : State} {i : Instr} (hbusy : s.status = .busy) (hfit : s.cp.toNat + 32 ≤ s.config.memSize)
    (h : decode s.descriptorAtCp = .ok i) : step s = exec i s.fetched := by
  simp [step, State.isBusy, State.canFetch, hbusy, hfit, h]

/-! ### The descriptor at an address -/

/-- R90, R63: 32 bytes of memory are the descriptor the fetch reads there. -/
theorem descriptorOfBytes_read (m : Memory) (a : Nat) : descriptorOfBytes (m.read a 32) = some (m.descriptor a) := rfl

/-- The decoder on the bytes at CP is the decoder on the fetched words. -/
theorem decodeBytes_read (m : Memory) (a : Nat) :
    decodeBytes (m.read a 32) = (decode (m.descriptor a)).map fun i => (i, []) := by
  simp only [decodeBytes, descriptorOfBytes_read, List.drop_eq_nil_of_le (Memory.length_read m a 32).le]
  cases decode (m.descriptor a) <;> rfl

/-- A descriptor written to memory is the one fetched from there. -/
theorem descriptor_write_descriptorBytes (m : Memory) (a : Nat) (x : Descriptor) :
    (m.write a (descriptorBytes x)).descriptor a = x := by
  have hread : (m.write a (descriptorBytes x)).read a 32 = descriptorBytes x := by
    simpa using m.read_write a (descriptorBytes x)
  have hwords : descriptorOfBytes (descriptorBytes x) = some x := by
    rw [descriptor_eq_words x]
    simpa using descriptorOfBytes_descriptorBytes x[0] x[1] x[2] x[3] x[4] x[5] x[6] x[7] []
  simpa [hread, hwords, eq_comm] using descriptorOfBytes_read (m.write a (descriptorBytes x)) a

/-! ### The placing function (log entry 7) -/

@[simp] theorem State.placeAtCp_status (s : State) (x : Descriptor) : (s.placeAtCp x).status = .busy := rfl

@[simp] theorem State.descriptorAtCp_placeAtCp (s : State) (x : Descriptor) : (s.placeAtCp x).descriptorAtCp = x :=
  descriptor_write_descriptorBytes _ _ x

/-- The placed descriptor lies inside MEM. -/
theorem State.placeAtCp_fits {s : State} (h : 32 ≤ s.config.memSize) (x : Descriptor) :
    (s.placeAtCp x).cp.toNat + 32 ≤ (s.placeAtCp x).config.memSize := by
  unfold State.placeAtCp
  split
  · next hfetch => exact of_decide_eq_true hfetch
  · simpa using h

/-! ### The obligations -/

/-- Settles O4: the bytes at CP decode to what the fetched words decode to. -/
theorem stepRunsTheDecodedCommand : Obligations.StepRunsTheDecodedCommand := by
  unfold Obligations.StepRunsTheDecodedCommand
  intro s i hbusy hfit hdecode
  rw [decodeBytes_read] at hdecode
  have hok : decode s.descriptorAtCp = .ok i := by
    rw [State.descriptorAtCp]
    cases h : decode (s.mem.descriptor s.cp.toNat) with
    | error e => simp [h, Except.map] at hdecode
    | ok j => simpa [h, Except.map] using hdecode
  rw [step_of_decode_ok hbusy hfit hok, latched_eq_fetched]

/-- Settles O5: it is the step's first branch. -/
theorem fetchOutsideMemoryFaults : Obligations.FetchOutsideMemoryFaults := by
  unfold Obligations.FetchOutsideMemoryFaults
  intro s hbusy h
  rw [step_of_not_fits hbusy h, raise_eq_faulted]
  rfl

/-- R94: a byte that is no row's number is no opcode. -/
theorem ofByte_eq_none {b : Byte} (h : ∀ row ∈ opcodeTable, row.1 ≠ b.toNat) : Opcode.ofByte b = none := by
  refine List.find?_eq_none.mpr fun op hop => ?_
  rw [opcodeTable_eq_map] at h
  have hne : op.byte.toNat ≠ b.toNat := h _ (List.mem_map_of_mem hop)
  simpa [BitVec.toNat_inj] using hne

/-- Settles O6: the opcode check is the decoder's first, and its reject is ILLEGAL_OP(W0). -/
theorem illegalOpcodeFaults : Obligations.IllegalOpcodeFaults := by
  unfold Obligations.IllegalOpcodeFaults
  intro s hbusy hfit h
  have hop : Opcode.ofByte (opField s.descriptorAtCp) = none := by
    rw [opField_descriptorAtCp]; exact ofByte_eq_none h
  have hdecode : decode s.descriptorAtCp = .error (.illegalOp s.descriptorAtCp[0]) := by rw [decode, hop]
  rw [step_of_decode_error hbusy hfit hdecode, latched_eq_fetched, headWord_eq_word]
  rfl

/-- Settles O10: the placed bytes are read back as the descriptor, and the step decodes those. -/
theorem placedDescriptorIsFetched : Obligations.PlacedDescriptorIsFetched := by
  unfold Obligations.PlacedDescriptorIsFetched
  intro s x hsize
  refine ⟨rfl, by simp [State.fetched], fun i hi => ?_⟩
  exact step_of_decode_ok (s.placeAtCp_status x) (State.placeAtCp_fits hsize x) (by simpa using hi)

/-- Settles O11: the three commands are one update each. -/
theorem controlCommandsDoExactlyThis : Obligations.ControlCommandsDoExactlyThis := by
  unfold Obligations.ControlCommandsDoExactlyThis
  exact fun s addr => ⟨execHalt_answers s, execNop_answers s, execSetcur_answers addr s⟩

end Sys2Proof.Machine
end

section
/-!
PROOFS about byte sequences (00_scope.md rule R15): which element stands where after the operations the units are made of. Every unit
lays its result out in rows or pixels of one length, so the central fact is `getD_flatMap_range`.
-/

namespace Sys2Proof.Machine

/-- Two sequences of one length with the same bytes are equal. -/
theorem eq_of_getD {s t : List Byte} (hlen : s.length = t.length) (h : ∀ i < s.length, s.getD i 0 = t.getD i 0) : s = t := by
  refine List.ext_getElem hlen fun i h1 h2 => ?_
  simpa [List.getD_eq_getElem?_getD, h1, h2] using h i h1

theorem getD_append (s t : List Byte) (i : Nat) :
    (s ++ t).getD i 0 = if i < s.length then s.getD i 0 else t.getD (i - s.length) 0 := by
  simp only [List.getD_eq_getElem?_getD, List.getElem?_append]
  split <;> rfl

theorem getD_append_left {s : List Byte} (t : List Byte) {i : Nat} (h : i < s.length) : (s ++ t).getD i 0 = s.getD i 0 := by
  rw [getD_append, if_pos h]

theorem getD_append_right (s t : List Byte) (i : Nat) : (s ++ t).getD (s.length + i) 0 = t.getD i 0 := by
  rw [getD_append, if_neg (by omega), Nat.add_sub_cancel_left]

theorem getD_range_map {n i : Nat} (f : Nat → Byte) (h : i < n) : ((List.range n).map f).getD i 0 = f i := by
  simp [List.getD_eq_getElem?_getD, h]

/-- Beyond its end a sequence reads as 0. -/
theorem getD_of_length_le {s : List Byte} {i : Nat} (h : s.length ≤ i) : s.getD i 0 = 0 := by
  simp [List.getD_eq_getElem?_getD, h]

theorem getD_zeros (n i : Nat) : (zeros n).getD i 0 = 0 := by
  by_cases h : i < n <;> simp [zeros, List.getD_eq_getElem?_getD, h]

theorem getD_drop (s : List Byte) (i j : Nat) : (s.drop i).getD j 0 = s.getD (i + j) 0 := by
  simp [List.getD_eq_getElem?_getD]

theorem getD_take {s : List Byte} {n i : Nat} (h : i < n) : (s.take n).getD i 0 = s.getD i 0 := by
  simp [List.getD_eq_getElem?_getD, h]

/-- Place `i`, offset `j` of blocks of length `k` lies inside `n` of them. -/
theorem block_lt {i n j k : Nat} (hi : i < n) (hj : j < k) : i * k + j < n * k := by
  calc i * k + j < i * k + k := by omega
    _ = (i + 1) * k := (Nat.succ_mul i k).symm
    _ ≤ n * k := Nat.mul_le_mul_right k hi

/-- A block starts where the one before it ends, so it lies inside the `n` blocks. -/
theorem block_le {i n k : Nat} (hi : i < n) : i * k + k ≤ n * k :=
  (Nat.succ_mul i k).symm.trans_le (Nat.mul_le_mul_right k hi)

/-- Offset `j` of block `i` is in block `i'` only when these are the same block. -/
theorem block_inj {i i' j j' k : Nat} (hj : j < k) (hj' : j' < k) (h : i * k + j = i' * k + j') : i = i' ∧ j = j' := by
  have hdiv := congrArg (· / k) h
  have hmod := congrArg (· % k) h
  simp only [Nat.mul_add_mod', Nat.mod_eq_of_lt hj, Nat.mod_eq_of_lt hj'] at hmod
  have hk : 0 < k := by omega
  rw [Nat.add_comm, Nat.add_comm (i' * k)] at hdiv
  simp only [Nat.add_mul_div_right _ _ hk, Nat.div_eq_of_lt hj, Nat.div_eq_of_lt hj', Nat.zero_add] at hdiv
  exact ⟨hdiv, hmod⟩

/-- Blocks of one length laid end to end: byte `j` of block `i`. -/
theorem getD_flatMap_range {f : Nat → List Byte} {k n i j : Nat} (hf : ∀ i < n, (f i).length = k) (hi : i < n) (hj : j < k) :
    ((List.range n).flatMap f).getD (i * k + j) 0 = (f i).getD j 0 := by
  induction n with
  | zero => omega
  | succ n ih =>
    have hlen : ((List.range n).flatMap f).length = n * k := by
      rw [length_flatMap_const f k _ fun a ha => hf a (by have := List.mem_range.mp ha; omega), List.length_range]
    rw [List.range_succ, List.flatMap_append]
    by_cases h : i < n
    · rw [getD_append_left _ (hlen ▸ block_lt h hj)]
      exact ih (fun i hi => hf i (by omega)) h
    · obtain rfl : i = n := by omega
      rw [← hlen, getD_append_right]
      simp

/-- What a replacement in place does to every byte. -/
theorem getD_putAt {s bs : List Byte} {i : Nat} (h : i + bs.length ≤ s.length) (j : Nat) :
    (putAt s i bs).getD j 0 = if i ≤ j ∧ j < i + bs.length then bs.getD (j - i) 0 else s.getD j 0 := by
  have hi : (s.take i).length = i := by simp; omega
  rw [putAt, List.append_assoc, getD_append, getD_append, hi, getD_drop]
  split_ifs with h1 h2 h3 h4 h5
  · omega
  · exact getD_take h1
  · rfl
  · omega
  · omega
  · congr 1; omega

/-- A read of memory is its bytes. -/
theorem getD_read (m : Memory) (a : Nat) {n i : Nat} (h : i < n) : (m.read a n).getD i 0 = m.byte (a + i) :=
  m.getD_read a n i h

/-- A stretch of a read is a read. -/
theorem slice_read (m : Memory) (a : Nat) {n i k : Nat} (h : i + k ≤ n) : slice (m.read a n) i k = m.read (a + i) k := by
  have hlen : (slice (m.read a n) i k).length = k := length_slice _ _ _ (by simpa using h)
  refine eq_of_getD (by simp [hlen]) fun j hj => ?_
  have hjk : j < k := by omega
  rw [getD_slice _ _ _ _ hjk, getD_read m a (by omega), getD_read m (a + i) hjk, Nat.add_assoc]

/-- R13: `k` is below `ceil(a / b)` exactly when `k · b` is below `a`. -/
theorem lt_divCeil {k a b : Nat} (hb : 0 < b) : k < divCeil a b ↔ k * b < a := by
  rw [divCeil, Nat.lt_iff_add_one_le, Nat.le_div_iff_mul_le hb, Nat.succ_mul]
  omega

/-- R13: a whole quotient has no remainder to round up. -/
theorem divCeil_mul_right (a : Nat) {b : Nat} (hb : 0 < b) : divCeil (a * b) b = a := by
  refine eq_of_forall_lt_iff fun k => ?_
  rw [lt_divCeil hb, Nat.mul_lt_mul_right hb]

end Sys2Proof.Machine
end

section
/-!
PROOFS about the passes and the raster (43_interlace.md rules R190 to R195). A pass is the set of pixels it `Has`; what a raster holds
is read pixel by pixel (`pixelByte`), so that scattering and gathering are statements about pixels and no offset is computed twice.
-/

namespace Sys2Proof.Machine

open Sys2Proof.Claims

/-! ### The pixels of a pass (R190, R191) -/

/-- R191: `(X, Y)` is a pixel of the pass, of some row and column of it. -/
def Pass.Has (p : Pass) (X Y : Nat) : Prop := ∃ row col, X = p.xo + col * p.xs ∧ Y = p.yo + row * p.ys

/-- R190: the strides of the table are positive and every offset is below its stride. -/
def Pass.Strided (p : Pass) : Prop := p.xo < p.xs ∧ p.yo < p.ys

theorem strided_of_mem_passesOf {il : Nat} {p : Pass} (h : p ∈ passesOf il) : p.Strided := by
  unfold passesOf at h
  split at h
  · obtain rfl := List.mem_singleton.mp h
    exact ⟨by decide, by decide⟩
  · have hall : ∀ p ∈ sevenPasses, p.xo < p.xs ∧ p.yo < p.ys := by decide
    exact hall p h

theorem mem_livePasses {il w h : Nat} {p : Pass} :
    p ∈ livePasses il w h ↔ p ∈ passesOf il ∧ 0 < p.width w ∧ 0 < p.height h := by
  simp [livePasses, Nat.pos_iff_ne_zero]

theorem livePasses_sublist (il w h : Nat) : (livePasses il w h).Sublist (passesOf il) := List.filter_sublist

theorem strided_of_mem_livePasses {il w h : Nat} {p : Pass} (hp : p ∈ livePasses il w h) : p.Strided :=
  strided_of_mem_passesOf (mem_livePasses.mp hp).1

/-- R191: the columns of a pass are those whose pixels lie in the image. -/
theorem Pass.lt_width {p : Pass} (hp : p.Strided) {w col : Nat} : col < p.width w ↔ p.xo + col * p.xs < w := by
  have hxs : 0 < p.xs := Nat.zero_lt_of_lt hp.1
  unfold Pass.width
  split
  · rw [lt_divCeil hxs]; omega
  · simp; omega

/-- R191: the rows of a pass are those whose pixels lie in the image. -/
theorem Pass.lt_height {p : Pass} (hp : p.Strided) {h row : Nat} : row < p.height h ↔ p.yo + row * p.ys < h := by
  have hys : 0 < p.ys := Nat.zero_lt_of_lt hp.2
  unfold Pass.height
  split
  · rw [lt_divCeil hys]; omega
  · simp; omega

/-- A number is an offset and a multiple of a stride when its remainder by the stride is the offset. -/
theorem exists_eq_add_mul_iff {x o k : Nat} (h : o < k) : (∃ n, x = o + n * k) ↔ x % k = o := by
  constructor
  · rintro ⟨n, rfl⟩
    rw [Nat.add_mul_mod_self_right, Nat.mod_eq_of_lt h]
  · intro hx
    exact ⟨x / k, by rw [← hx, Nat.mul_comm, Nat.mod_add_div]⟩

theorem Pass.has_iff {p : Pass} (hp : p.Strided) (X Y : Nat) : p.Has X Y ↔ X % p.xs = p.xo ∧ Y % p.ys = p.yo := by
  rw [← exists_eq_add_mul_iff hp.1, ← exists_eq_add_mul_iff hp.2]
  exact ⟨fun ⟨row, col, hx, hy⟩ => ⟨⟨col, hx⟩, ⟨row, hy⟩⟩, fun ⟨⟨col, hx⟩, ⟨row, hy⟩⟩ => ⟨row, col, hx, hy⟩⟩

/-- The row and the column of a pixel of a pass are determined. -/
theorem Pass.row_col_inj {p : Pass} (hp : p.Strided) {row row' col col' : Nat}
    (hx : p.xo + col * p.xs = p.xo + col' * p.xs) (hy : p.yo + row * p.ys = p.yo + row' * p.ys) : row = row' ∧ col = col' :=
  ⟨Nat.eq_of_mul_eq_mul_right (Nat.zero_lt_of_lt hp.2) (Nat.add_left_cancel hy),
    Nat.eq_of_mul_eq_mul_right (Nat.zero_lt_of_lt hp.1) (Nat.add_left_cancel hx)⟩

/-- R190's tile, read from the table's offsets and strides: the 64 places of a tile, pass by pass. -/
theorem tile_iff : ∀ x < 8, ∀ y < 8, ∀ k, (hk : k < sevenPasses.length) →
    (x % sevenPasses[k].xs = sevenPasses[k].xo ∧ y % sevenPasses[k].ys = sevenPasses[k].yo ↔ passNumber x y = k + 1) := by
  decide

/-- R190: every stride divides the side of a tile. -/
theorem strides_dvd : ∀ p ∈ sevenPasses, p.xs ∣ 8 ∧ p.ys ∣ 8 := by decide

/-- R190: pass number `k + 1` has the pixels that the tile gives to it. -/
theorem has_iff_passNumber (X Y : Nat) {k : Nat} (hk : k < sevenPasses.length) :
    sevenPasses[k].Has X Y ↔ passNumber X Y = k + 1 := by
  have hmem : sevenPasses[k] ∈ sevenPasses := List.getElem_mem hk
  obtain ⟨hxs, hys⟩ := strides_dvd _ hmem
  have htile := tile_iff (X % 8) (Nat.mod_lt _ (by decide)) (Y % 8) (Nat.mod_lt _ (by decide)) k hk
  rw [Nat.mod_mod_of_dvd X hxs, Nat.mod_mod_of_dvd Y hys] at htile
  rw [Pass.has_iff (strided_of_mem_passesOf (il := 1) hmem), htile]
  simp [passNumber]

/-- R190's tile names one of the seven passes. -/
theorem passNumber_bounds (X Y : Nat) : 1 ≤ passNumber X Y ∧ passNumber X Y ≤ 7 := by
  have htile : ∀ x < 8, ∀ y < 8, 1 ≤ passNumber x y ∧ passNumber x y ≤ 7 := by decide
  have h := htile (X % 8) (Nat.mod_lt _ (by decide)) (Y % 8) (Nat.mod_lt _ (by decide))
  simpa [passNumber] using h

/-- Two passes have no pixel in common. -/
def Pass.Disjoint (p q : Pass) : Prop := ∀ X Y, p.Has X Y → ¬q.Has X Y

/-- R190: no pixel belongs to two passes of a method. -/
theorem passesOf_disjoint (il : Nat) : (passesOf il).Pairwise Pass.Disjoint := by
  unfold passesOf
  split
  · exact List.pairwise_singleton _ _
  · refine List.pairwise_iff_getElem.mpr fun k l hk hl hkl X Y hp hq => ?_
    rw [has_iff_passNumber] at hp hq
    omega

theorem livePasses_disjoint (il w h : Nat) : (livePasses il w h).Pairwise Pass.Disjoint :=
  (passesOf_disjoint il).sublist (livePasses_sublist il w h)

/-- R190: every pixel belongs to a pass of the method. -/
theorem exists_pass_has (il X Y : Nat) : ∃ p ∈ passesOf il, p.Has X Y := by
  unfold passesOf
  split
  · exact ⟨⟨0, 0, 1, 1⟩, by simp, Y, X, by simp, by simp⟩
  · obtain ⟨h1, h7⟩ := passNumber_bounds X Y
    have hk : passNumber X Y - 1 < sevenPasses.length := show _ < 7 by omega
    exact ⟨_, List.getElem_mem hk, (has_iff_passNumber X Y hk).mpr (by omega)⟩

/-- R191: every pixel of an image is a row and a column of a non-empty pass. -/
theorem exists_livePass {w h X Y : Nat} (il : Nat) (hX : X < w) (hY : Y < h) :
    ∃ p ∈ livePasses il w h, ∃ row < p.height h, ∃ col < p.width w, X = p.xo + col * p.xs ∧ Y = p.yo + row * p.ys := by
  obtain ⟨p, hp, row, col, hx, hy⟩ := exists_pass_has il X Y
  have hstr := strided_of_mem_passesOf hp
  have hcol : col < p.width w := (Pass.lt_width hstr).mpr (hx ▸ hX)
  have hrow : row < p.height h := (Pass.lt_height hstr).mpr (hy ▸ hY)
  exact ⟨p, mem_livePasses.mpr ⟨hp, Nat.zero_lt_of_lt hcol, Nat.zero_lt_of_lt hrow⟩, row, hrow, col, hcol, hx, hy⟩

/-- Settles O25: the pass of a pixel is the one its place in the tile names, and its row and column are quotients. -/
theorem everyPixelBelongsToExactlyOnePass : Obligations.EveryPixelBelongsToExactlyOnePass := by
  unfold Obligations.EveryPixelBelongsToExactlyOnePass
  refine ⟨⟨rfl, rfl, rfl⟩, fun il w h => ⟨livePasses_sublist il w h, fun p hp => ?live⟩, ?tile, fun w h x y hx hy => ?unique⟩
  case live => simp [mem_livePasses, hp]
  case tile => exact fun x y k hk => has_iff_passNumber x y hk
  case unique =>
    obtain ⟨p, hp, row, hrow, col, hcol, hpx, hpy⟩ := exists_livePass 1 hx hy
    have hp7 : p ∈ sevenPasses := (mem_livePasses.mp hp).1
    refine ⟨(p, row, col), ⟨hp7, hrow, hcol, hpx, hpy⟩, ?_⟩
    rintro ⟨q, row', col'⟩ ⟨hq, -, -, hqx, hqy⟩
    dsimp only at hq hqx hqy
    obtain rfl : q = p := by
      obtain ⟨k, hk, rfl⟩ := List.mem_iff_getElem.mp hq
      obtain ⟨l, hl, rfl⟩ := List.mem_iff_getElem.mp hp7
      have hkx := (has_iff_passNumber x y hk).mp ⟨row', col', hqx, hqy⟩
      have hlx := (has_iff_passNumber x y hl).mp ⟨row, col, hpx, hpy⟩
      obtain rfl : k = l := by omega
      rfl
    obtain ⟨rfl, rfl⟩ := Pass.row_col_inj (strided_of_mem_passesOf (il := 1) hq) (hqx ▸ hpx) (hqy ▸ hpy)
    rfl

/-! ### Sizes (R192, R193) -/

/-- R192: at a whole number of bytes a sample, a pass row has a pixel's bytes for each of its pixels. -/
theorem passRowBytes_of_not_lt {d : Nat} (hd : d ∈ [1, 2, 4, 8, 16]) (h8 : ¬d < 8) (c pw : Nat) :
    passRowBytes d c pw = pw * pixBytes d c := by
  have hwhole : d = divCeil d 8 * 8 := by
    rcases (show d = 8 ∨ d = 16 by simp at hd; omega) with rfl | rfl <;> rfl
  rw [passRowBytes, pixBytes, if_neg h8, bppOf]
  conv_lhs => rw [hwhole, ← Nat.mul_assoc, divCeil_mul_right _ (by decide)]
  ring

/-- R192: below a byte a sample, a pixel of the raster is one byte a channel. -/
theorem pixBytes_of_lt {d : Nat} (h8 : d < 8) (c : Nat) : pixBytes d c = c := if_pos h8

/-- R195: a reconstructed row has a pixel's bytes for each pixel of the pass. -/
theorem length_rasterRow {d : Nat} (hd : d ∈ [1, 2, 4, 8, 16]) (c pw : Nat) {line : List Byte}
    (hl : line.length = passRowBytes d c pw) : (rasterRow d c pw line).length = pw * pixBytes d c := by
  unfold rasterRow
  split
  · next h8 => rw [length_unpackRow, pixBytes_of_lt h8]
  · next h8 => rw [hl, passRowBytes_of_not_lt hd h8]

/-! ### The raster, pixel by pixel (R194) -/

/-- R194: byte `j` of pixel `(X, Y)` of a raster `w` pixels wide. -/
def pixelByte (raster : List Byte) (w pix X Y j : Nat) : Byte := raster.getD ((Y * w + X) * pix + j) 0

/-- R194: a pixel of the image lies inside the raster. -/
theorem pixel_le {w h pix X Y : Nat} (hX : X < w) (hY : Y < h) : (Y * w + X) * pix + pix ≤ w * h * pix := by
  refine block_le ?_
  rw [Nat.mul_comm w h]
  exact block_lt hY hX

/-- R194: the bytes of different pixels are at different offsets. -/
theorem pixel_inj {w pix X X' Y Y' j j' : Nat} (hX : X < w) (hX' : X' < w) (hj : j < pix) (hj' : j' < pix)
    (h : (Y * w + X) * pix + j = (Y' * w + X') * pix + j') : X = X' ∧ Y = Y' ∧ j = j' := by
  obtain ⟨hpix, rfl⟩ := block_inj hj hj' h
  obtain ⟨rfl, rfl⟩ := block_inj hX hX' hpix
  exact ⟨rfl, rfl, rfl⟩

/-- A raster is what its pixels hold. -/
theorem raster_ext {r t : List Byte} {w h pix : Nat} (hr : r.length = w * h * pix) (ht : t.length = w * h * pix)
    (heq : ∀ X < w, ∀ Y < h, ∀ j < pix, pixelByte r w pix X Y j = pixelByte t w pix X Y j) : r = t := by
  refine eq_of_getD (hr.trans ht.symm) fun i hi => ?_
  rw [hr] at hi
  have hpix : 0 < pix := Nat.pos_of_ne_zero (by rintro rfl; simp at hi)
  have hq : i / pix < h * w := by rw [Nat.mul_comm h]; exact Nat.div_lt_of_lt_mul (by rwa [Nat.mul_comm pix])
  have hw : 0 < w := Nat.pos_of_ne_zero (by rintro rfl; simp at hq)
  have key := heq (i / pix % w) (Nat.mod_lt _ hw) (i / pix / w) (Nat.div_lt_of_lt_mul (by rwa [Nat.mul_comm w])) (i % pix)
    (Nat.mod_lt _ hpix)
  simpa only [pixelByte, Nat.div_add_mod', Nat.div_add_mod] using key

/-- One pixel of a raster is replaced. -/
theorem pixelByte_putAt {raster bs : List Byte} {w h pix X X' Y Y' j : Nat} (hr : raster.length = w * h * pix)
    (hbs : bs.length = pix) (hX : X < w) (hX' : X' < w) (hY' : Y' < h) (hj : j < pix) :
    pixelByte (putAt raster ((Y' * w + X') * pix) bs) w pix X Y j =
      if X = X' ∧ Y = Y' then bs.getD j 0 else pixelByte raster w pix X Y j := by
  have hfit : (Y' * w + X') * pix + bs.length ≤ raster.length := by rw [hbs, hr]; exact pixel_le hX' hY'
  rw [pixelByte, getD_putAt hfit]
  by_cases hsame : X = X' ∧ Y = Y'
  · obtain ⟨rfl, rfl⟩ := hsame
    rw [if_pos (by omega), if_pos ⟨rfl, rfl⟩, Nat.add_sub_cancel_left]
  · rw [if_neg hsame, if_neg ?_]
    · rfl
    · rintro ⟨hlow, hhigh⟩
      obtain ⟨d, hd⟩ := Nat.exists_eq_add_of_le hlow
      obtain ⟨hx, hy, -⟩ := pixel_inj hX hX' hj (by omega) hd
      exact hsame ⟨hx, hy⟩

/-! ### Scattering a row, a pass (R195) -/

/-- R195: the first `n` pixels of a pass row scattered into the raster. -/
def scatterPixels (p : Pass) (w pix row n : Nat) (q raster : List Byte) : List Byte :=
  (List.range n).foldl (fun out col => putAt out (pixelOffset p w pix row col) (slice q (col * pix) pix)) raster

theorem scatterRow_eq (p : Pass) (w pix pw row : Nat) (q raster : List Byte) :
    scatterRow p w pix pw row q raster = scatterPixels p w pix row pw q raster := rfl

theorem scatterPixels_succ (p : Pass) (w pix row n : Nat) (q raster : List Byte) :
    scatterPixels p w pix row (n + 1) q raster =
      putAt (scatterPixels p w pix row n q raster) (pixelOffset p w pix row n) (slice q (n * pix) pix) := by
  simp [scatterPixels, List.range_succ]

section
variable {p : Pass} {w h pix row : Nat} {q raster : List Byte} (hp : p.Strided) (hr : raster.length = w * h * pix)
  (hrow : row < p.height h) (hq : q.length = p.width w * pix)
include hp hr hrow hq

theorem length_scatterPixels {n : Nat} (hn : n ≤ p.width w) : (scatterPixels p w pix row n q raster).length = w * h * pix := by
  induction n with
  | zero => exact hr
  | succ n ih =>
    have hslice : (slice q (n * pix) pix).length = pix := length_slice _ _ _ (hq ▸ block_le hn)
    have hfit : pixelOffset p w pix row n + pix ≤ w * h * pix :=
      pixel_le ((Pass.lt_width hp).mp hn) ((Pass.lt_height hp).mp hrow)
    rw [scatterPixels_succ, length_putAt, ih (by omega)]
    rw [ih (by omega), hslice]
    exact hfit

/-- R195: a pixel of the row holds its bytes of the row, every other pixel what it held. -/
theorem pixelByte_scatterPixels {n X Y j : Nat} (hn : n ≤ p.width w) (hX : X < w) (hj : j < pix) :
    (∀ col < n, X = p.xo + col * p.xs → Y = p.yo + row * p.ys →
      pixelByte (scatterPixels p w pix row n q raster) w pix X Y j = q.getD (col * pix + j) 0) ∧
    ((∀ col < n, X = p.xo + col * p.xs → Y ≠ p.yo + row * p.ys) →
      pixelByte (scatterPixels p w pix row n q raster) w pix X Y j = pixelByte raster w pix X Y j) := by
  induction n with
  | zero => exact ⟨fun _ h => absurd h (by omega), fun _ => rfl⟩
  | succ n ih =>
    obtain ⟨hhit, hmiss⟩ := ih (by omega)
    have hslice : (slice q (n * pix) pix).length = pix := length_slice _ _ _ (hq ▸ block_le hn)
    have hput := pixelByte_putAt (Y := Y) (length_scatterPixels hp hr hrow hq (show n ≤ p.width w by omega)) hslice hX
      ((Pass.lt_width hp).mp hn) ((Pass.lt_height hp).mp hrow) hj
    rw [scatterPixels_succ]
    refine ⟨fun col hcol hx hy => ?_, fun hno => ?_⟩
    · refine hput.trans ?_
      by_cases hlast : col = n
      · rw [if_pos (hlast ▸ ⟨hx, hy⟩), getD_slice _ _ _ _ hj, hlast]
      · rw [if_neg, hhit col (by omega) hx hy]
        exact fun hn => hlast (Pass.row_col_inj hp (hx.symm.trans hn.1) (hy.symm.trans hn.2)).2
    · refine hput.trans ?_
      rw [if_neg fun hn => hno n (by omega) hn.1 hn.2]
      exact hmiss fun col hcol => hno col (by omega)

end

/-- The lines of a pass fit it: one a row, and each has the bytes of its pixels. -/
structure PassLines (d c w h : Nat) (p : Pass) (lines : List (List Byte)) : Prop where
  count : lines.length = p.height h
  size : ∀ l ∈ lines, l.length = passRowBytes d c (p.width w)

section
variable {d c w h : Nat} {p : Pass} (hd : d ∈ [1, 2, 4, 8, 16]) (hp : p.Strided)
include hd hp

theorem length_scatterRows {lines : List (List Byte)} {row : Nat} {raster : List Byte}
    (hr : raster.length = w * h * pixBytes d c) (hcount : row + lines.length ≤ p.height h)
    (hsize : ∀ l ∈ lines, l.length = passRowBytes d c (p.width w)) :
    (scatterRows d c w p row lines raster).length = w * h * pixBytes d c := by
  induction lines generalizing row raster with
  | nil => exact hr
  | cons line lines ih =>
    have hq := length_rasterRow hd c (p.width w) (hsize line (by simp))
    rw [List.length_cons] at hcount
    rw [scatterRows, scatterRow_eq]
    exact ih (length_scatterPixels hp hr (by omega) hq le_rfl) (by omega) fun l hl => hsize l (by simp [hl])

/-- R195: a pixel of a scattered row holds its bytes of the row, a pixel outside the pass what it held. -/
theorem pixelByte_scatterRows {lines : List (List Byte)} {row : Nat} {raster : List Byte} {X Y j : Nat}
    (hr : raster.length = w * h * pixBytes d c) (hcount : row + lines.length ≤ p.height h)
    (hsize : ∀ l ∈ lines, l.length = passRowBytes d c (p.width w)) (hX : X < w) (hj : j < pixBytes d c) :
    (∀ r col, (hlt : r < lines.length) → col < p.width w → X = p.xo + col * p.xs → Y = p.yo + (row + r) * p.ys →
      pixelByte (scatterRows d c w p row lines raster) w (pixBytes d c) X Y j =
        (rasterRow d c (p.width w) lines[r]).getD (col * pixBytes d c + j) 0) ∧
    ((∀ r < lines.length, ∀ col, X = p.xo + col * p.xs → Y ≠ p.yo + (row + r) * p.ys) →
      pixelByte (scatterRows d c w p row lines raster) w (pixBytes d c) X Y j = pixelByte raster w (pixBytes d c) X Y j) := by
  induction lines generalizing row raster with
  | nil => exact ⟨fun _ _ h => absurd h (by simp), fun _ => rfl⟩
  | cons line lines ih =>
    rw [List.length_cons] at hcount
    have hq := length_rasterRow hd c (p.width w) (hsize line (by simp))
    have hrow : row < p.height h := by omega
    obtain ⟨hhit, hmiss⟩ := ih (row := row + 1)
      (length_scatterPixels hp hr hrow hq le_rfl) (by omega) fun l hl => hsize l (by simp [hl])
    obtain ⟨hhit0, hmiss0⟩ := pixelByte_scatterPixels (Y := Y) hp hr hrow hq le_rfl hX hj
    rw [scatterRows, scatterRow_eq]
    refine ⟨fun r col hlt hcol hx hy => ?_, fun hno => ?_⟩
    · cases r with
      | zero =>
        refine (hmiss fun r _ col' _ hy' => ?_).trans (hhit0 col hcol hx hy)
        have hrows := Nat.eq_of_mul_eq_mul_right (Nat.zero_lt_of_lt hp.2) (Nat.add_left_cancel (hy.symm.trans hy'))
        omega
      | succ r =>
        exact hhit r col (by simpa using hlt) hcol hx (by rw [hy]; congr 2; omega)
    · refine (hmiss fun r hr' col hx hy => hno (r + 1) (by simpa using hr') col hx (by rw [hy]; congr 2; omega)).trans ?_
      exact hmiss0 fun col _ hx => hno 0 (by simp) col hx

end

/-! ### Reassembly (R195) -/

/-- R193: a stretch of the stream gives the lines of its pass. -/
theorem passLines_of_unfilterPass {d c w h bpp : Nat} {p : Pass} {s : List Byte} {lines : List (List Byte)}
    (hs : passBytes d c w h p ≤ s.length)
    (hl : unfilterPass (s.take (passBytes d c w h p)) (passRowBytes d c (p.width w)) (p.height h) bpp = .ok lines) :
    PassLines d c w h p lines := by
  obtain ⟨hcount, hsize⟩ := unfilterPass_lines (by
    rw [List.length_take, Nat.min_eq_left hs, passBytes, Nat.add_comm 1]) hl
  exact ⟨hcount, hsize⟩

/-- R193: the bytes of the passes before number `k`. -/
def stretchStart (d c w h : Nat) (ps : List Pass) (k : Nat) : Nat := ((ps.take k).map (passBytes d c w h)).sum

@[simp] theorem stretchStart_zero (d c w h : Nat) (ps : List Pass) : stretchStart d c w h ps 0 = 0 := rfl

@[simp] theorem stretchStart_succ (d c w h : Nat) (p : Pass) (ps : List Pass) (k : Nat) :
    stretchStart d c w h (p :: ps) (k + 1) = passBytes d c w h p + stretchStart d c w h ps k := by simp [stretchStart]

/-- R195: what `reassemble` leaves, pass by pass: the lines of each stretch, in their pixels of the raster. -/
theorem reassemblePasses_ok {d c w h : Nat} {ps : List Pass} {s raster out : List Byte} (hd : d ∈ [1, 2, 4, 8, 16])
    (hps : ∀ p ∈ ps, p.Strided) (hdisj : ps.Pairwise Pass.Disjoint) (hs : s.length = (ps.map (passBytes d c w h)).sum)
    (hr : raster.length = w * h * pixBytes d c) (hok : reassemblePasses d c w h ps s raster = .ok out) :
    out.length = w * h * pixBytes d c ∧
    (∀ k, (hk : k < ps.length) → ∃ lines,
      unfilterPass (slice s (stretchStart d c w h ps k) (passBytes d c w h ps[k])) (passRowBytes d c (ps[k].width w))
        (ps[k].height h) (bppOf d c) = .ok lines ∧ PassLines d c w h ps[k] lines ∧
      ∀ row col, (hrow : row < lines.length) → col < ps[k].width w → ∀ j < pixBytes d c,
        pixelByte out w (pixBytes d c) (ps[k].xo + col * ps[k].xs) (ps[k].yo + row * ps[k].ys) j =
          (rasterRow d c (ps[k].width w) lines[row]).getD (col * pixBytes d c + j) 0) ∧
    ∀ X < w, ∀ Y, ∀ j < pixBytes d c, (∀ p ∈ ps, ¬p.Has X Y) →
      pixelByte out w (pixBytes d c) X Y j = pixelByte raster w (pixBytes d c) X Y j := by
  induction ps generalizing s raster with
  | nil =>
    obtain rfl : raster = out := by simpa [reassemblePasses] using hok
    exact ⟨hr, fun k hk => absurd hk (by simp), fun _ _ _ _ _ _ => rfl⟩
  | cons p ps ih =>
    have hstr := hps p (by simp)
    obtain ⟨hdisj0, hdisj'⟩ := List.pairwise_cons.mp hdisj
    rw [List.map_cons, List.sum_cons] at hs
    rw [reassemblePasses] at hok
    split at hok
    · cases hok
    · next lines hlines =>
      have hfits := passLines_of_unfilterPass (by omega) hlines
      obtain ⟨hlen, hlater, hother⟩ := ih (fun q hq => hps q (by simp [hq])) hdisj' (by rw [List.length_drop]; omega)
        (length_scatterRows hd hstr hr (by rw [hfits.count]; omega) hfits.size) hok
      refine ⟨hlen, fun k hk => ?_, fun X hX Y j hj hno => ?_⟩
      · cases k with
        | zero =>
          refine ⟨lines, hlines, hfits, fun row col hrow hcol j hj => ?_⟩
          have hX : p.xo + col * p.xs < w := (Pass.lt_width hstr).mp hcol
          refine (hother _ hX _ _ hj fun q hq => hdisj0 q hq _ _ ⟨row, col, rfl, rfl⟩).trans ?_
          exact (pixelByte_scatterRows hd hstr hr (by rw [hfits.count]; omega) hfits.size hX hj).1 row col hrow hcol rfl
            (by rw [Nat.zero_add])
        | succ k =>
          obtain ⟨ls, hls, hpl, hpix⟩ := hlater k (by simpa using hk)
          refine ⟨ls, ?_, hpl, hpix⟩
          rw [stretchStart_succ, ← hls]
          simp only [slice, List.drop_drop, List.getElem_cons_succ]
      · refine (hother X hX Y j hj fun q hq => hno q (by simp [hq])).trans ?_
        exact (pixelByte_scatterRows hd hstr hr (by rw [hfits.count]; omega) hfits.size hX hj).2
          fun r _ col hx hy => hno p (by simp) ⟨0 + r, col, hx, hy⟩

/-- R193, R194: `reassemble` gives a whole raster. -/
theorem length_reassemble {d c il w h : Nat} {s out : List Byte} (hd : d ∈ [1, 2, 4, 8, 16])
    (hs : s.length = streamLen d c il w h) (hok : reassemble d c il s w h = .ok out) : out.length = rasterBytes d c w h :=
  (reassemblePasses_ok hd (fun _ => strided_of_mem_livePasses) (livePasses_disjoint il w h) hs (length_zeros _) hok).1

/-! ### Decomposition (R195) -/

/-- R195: a gathered row has a pixel's bytes for each pixel of the pass row, and they are the raster's. -/
theorem gatherRow_spec {p : Pass} {w h pix row : Nat} {raster : List Byte} (hp : p.Strided)
    (hr : raster.length = w * h * pix) (hrow : row < p.height h) :
    (gatherRow p w pix (p.width w) row raster).length = p.width w * pix ∧
    ∀ col < p.width w, ∀ j < pix, (gatherRow p w pix (p.width w) row raster).getD (col * pix + j) 0 =
      pixelByte raster w pix (p.xo + col * p.xs) (p.yo + row * p.ys) j := by
  have hslice : ∀ col < p.width w, (slice raster (pixelOffset p w pix row col) pix).length = pix := fun col hcol =>
    length_slice _ _ _ (hr ▸ pixel_le ((Pass.lt_width hp).mp hcol) ((Pass.lt_height hp).mp hrow))
  refine ⟨?_, fun col hcol j hj => ?_⟩
  · rw [gatherRow, length_flatMap_const _ pix _ fun col hcol => hslice col (List.mem_range.mp hcol), List.length_range]
  · rw [gatherRow, getD_flatMap_range hslice hcol hj, getD_slice _ _ _ _ hj]
    rfl

/-- R195: a row of the stream has its tag and the bytes of a pass row. -/
theorem length_streamRow {d c w h row : Nat} {p : Pass} {raster bs : List Byte} (hd : d ∈ [1, 2, 4, 8, 16]) (hp : p.Strided)
    (hr : raster.length = rasterBytes d c w h) (hrow : row < p.height h) (hok : streamRow d c w raster p row = .ok bs) :
    bs.length = 1 + passRowBytes d c (p.width w) := by
  unfold streamRow at hok
  dsimp only at hok
  split at hok
  · split at hok
    · cases hok
    · cases hok
      rw [List.length_cons, length_packRow, Nat.add_comm]
      rfl
  · next h8 =>
    cases hok
    rw [List.length_cons, (gatherRow_spec hp hr hrow).1, passRowBytes_of_not_lt hd h8, Nat.add_comm]

/-- R193, R195: `decompose` gives a whole stream. -/
theorem length_decompose {d c il w h : Nat} {raster bs : List Byte} (hd : d ∈ [1, 2, 4, 8, 16])
    (hr : raster.length = rasterBytes d c w h) (hok : decompose d c il raster w h = .ok bs) :
    bs.length = streamLen d c il w h := by
  refine length_joinRows (fun p hp cs hcs => ?_) hok
  have hrows := length_joinRows (n := fun _ => 1 + passRowBytes d c (p.width w))
    (fun row hrow ds hds => length_streamRow hd (strided_of_mem_livePasses hp) hr (List.mem_range.mp hrow) hds) hcs
  simpa [passBytes] using hrows

end Sys2Proof.Machine
end

section
/-!
PROOFS about every command at once (R20 to R38, R70, R102 step 7, R300, R310, R339). `exec_answers` says once what a command can
answer: fault entry by its check, or one of the `Effect`s. Each statement about all commands is a case split over the effects.
-/

namespace Sys2Proof.Machine

open Sys2Proof.Claims

/-! ### The result of PALX -/

/-- R224: a row has an index for each of its pixels. -/
theorem length_rowIndices {d : Nat} (hd : d ∈ [1, 2, 4, 8]) (w : Nat) {row : List Byte}
    (hrow : row.length = indexRowBytes d w) : (rowIndices d w row).length = w := by
  unfold rowIndices
  split
  · exact length_unpackRow _ _ _
  · obtain rfl : d = 8 := by simp at hd; omega
    rw [hrow, indexRowBytes, divCeil_mul_right _ (by decide)]

/-- R224: the indices of an image, one a pixel. -/
def imageIndices (d : Nat) (src : List Byte) (w h : Nat) : List Byte :=
  (List.range h).flatMap fun y => rowIndices d w (slice src (y * indexRowBytes d w) (indexRowBytes d w))

theorem length_imageRow {d : Nat} (hd : d ∈ [1, 2, 4, 8]) {src : List Byte} {w h y : Nat}
    (hs : src.length = h * indexRowBytes d w) (hy : y < h) :
    (rowIndices d w (slice src (y * indexRowBytes d w) (indexRowBytes d w))).length = w :=
  length_rowIndices hd w (length_slice _ _ _ (hs ▸ block_le hy))

/-- R225: PALX's result fills its destination range. -/
theorem length_expand {p : Palette} {d : Nat} {src out : List Byte} {w h : Nat} (hd : d ∈ [1, 2, 4, 8])
    (hs : src.length = h * indexRowBytes d w) (hc : p.palc.toNat ≤ 4) (hok : expand p d src w h = .ok out) :
    out.length = w * h * p.palc.toNat := by
  rw [length_expandIndices hc hok,
    length_flatMap_const _ w _ fun y hy => length_imageRow hd hs (List.mem_range.mp hy), List.length_range, Nat.mul_comm h]

/-! ### What a command answers -/

/-- R296: the check of a command. -/
def commandCheck (i : Instr) (s : State) : Option Raise :=
  match i with
  | .crc src len => checkRanges s (crcRanges src len)
  | .crcchk crclen _ => crcchkCheck crclen s
  | .palld src n => palldCheck src n s
  | .paltr src m => paltrCheck src m s
  | .acfg channels ss _ w h _ => acfgCheck channels ss w h
  | _ => writeCheck i s

/-- The data commands with one destination range. -/
def singleDestination : List Opcode := [.unpack, .pack, .unfilt, .filt, .deint, .intl, .swap16, .palx]

/-- What a command whose check passes can make of the state. -/
inductive Effect (s : State) : Instr → State → Prop where
  | halt : Effect s .halt (s.withStatus .done)
  | nop : Effect s .nop s.advance
  | setcur (addr : Word) : Effect s (.setcur addr) (s.withCur addr).advance
  | crc (src len w : Word) : Effect s (.crc src len) (s.withCrcr w).advance
  | crcchk (crclen name w : Word) : Effect s (.crcchk crclen name) ((s.withCrcr w).withCur (s.cur + 4)).advance
  | mismatch (crclen name w stored computed : Word) :
      Effect s (.crcchk crclen name) ((s.withCrcr w).raise (raiseCrcMismatch stored computed name))
  | finish {i : Instr} {dst : Word} {bs : List Byte} {n : Nat} (hop : i.opcode ∈ singleDestination)
      (hrange : writtenRanges s i = [(dst.toNat, n)]) (hlen : s.pal.palc.toNat ≤ 4 → bs.length = n) :
      Effect s i (s.finish dst bs n)
  | badData {i : Instr} {dst : Word} {n : Nat} {f : Raise} (hop : i.opcode ∈ singleDestination)
      (hrange : writtenRanges s i = [(dst.toNat, n)]) (hdata : dataDependent f.kind.code i = true) :
      Effect s i ((s.scribble dst.toNat n).raise f)
  | palld (src n : Word) (lut : Vector LutEntry 256) :
      Effect s (.palld src n)
        { s.withPal ⟨BitVec.ofNat 32 (n.toNat / 3), 3, lut⟩ with freeDraws := s.freeDraws + 1 }.advance
  | paltr (src m : Word) (lut : Vector LutEntry 256) :
      Effect s (.paltr src m) (s.withPal ⟨s.pal.paln, 4, lut⟩).advance
  | acfg (channels ss : Byte) (canvas w h snap : Word) :
      Effect s (.acfg channels ss canvas w h snap) (s.withComp (configured channels ss canvas w h snap)).advance
  | compose (dispose blend : Byte) (src fw fh out x y : Word) :
      Effect s (.compose dispose blend src fw fh out x y)
        (((s.withMem (composeMemory s.config.overFn s.cfg.hle s.comp src.toNat out.toNat
            (effectiveRect s.comp blend fw fh x y) s.mem)).withComp
          (recordFrame s.comp dispose (effectiveRect s.comp blend fw fh x y))).withOlen s.comp.cb).advance

theorem Answers.imp {o : Host.Outcome State Fault Refusal} {s : State} {check : Option Raise} {P Q : State → Prop}
    (h : Answers o s check P) (hPQ : check = none → ∀ t, P t → Q t) : Answers o s check Q := by
  obtain ⟨t, ht, hfault | ⟨hnone, hP⟩⟩ := h
  · exact ⟨t, ht, .inl hfault⟩
  · exact ⟨t, ht, .inr ⟨hnone, hPQ hnone t hP⟩⟩

/-- A data command with a data-dependent fault ends in `finish` or in that fault. -/
theorem DataAnswer.effect {s : State} {i : Instr} {dst : Word} {n : Nat} {r : Except Raise (List Byte)} {t : State}
    (hop : i.opcode ∈ singleDestination) (hrange : writtenRanges s i = [(dst.toNat, n)])
    (hok : ∀ bs, r = .ok bs → s.pal.palc.toNat ≤ 4 → bs.length = n)
    (herror : ∀ f, r = .error f → dataDependent f.kind.code i = true) (h : DataAnswer s dst n r t) : Effect s i t := by
  obtain ⟨f, hf, rfl⟩ | ⟨bs, hbs, rfl⟩ := h
  · exact .badData hop hrange (herror f hf)
  · exact .finish hop hrange (hok bs hbs)

/-- The destination bytes of UNFILT fill its destination range. -/
theorem length_unfiltResult {bpp : Byte} {src rb rows : Word} {s : State} {bs : List Byte}
    (h : unfiltResult bpp src rb rows s = .ok bs) : bs.length = rows.toNat * rb.toNat := by
  unfold unfiltResult at h
  cases hp : unfilterPass (s.mem.read src.toNat (rows.toNat * (rb.toNat + 1))) rb.toNat rows.toNat bpp.toNat with
  | error f => simp [hp, Except.map] at h
  | ok lines =>
    obtain rfl : lines.flatten = bs := by simpa [hp, Except.map] using h
    obtain ⟨hcount, hsize⟩ := unfilterPass_lines (length_read _ _ _).ge hp
    rw [length_flatten_const hsize, hcount]

theorem unfiltResult_error {bpp : Byte} {src rb rows : Word} {s : State} {f : Raise}
    (h : unfiltResult bpp src rb rows s = .error f) : f.kind = .badFilter := by
  unfold unfiltResult at h
  cases hp : unfilterPass (s.mem.read src.toNat (rows.toNat * (rb.toNat + 1))) rb.toNat rows.toNat bpp.toNat with
  | error g =>
    obtain rfl : g = f := by simpa [hp, Except.map] using h
    exact unfilterPass_error hp
  | ok lines => simp [hp, Except.map] at h

/-- R102 step 6: every command answers fault entry by its check, or one of its effects. -/
theorem exec_answers (i : Instr) (s : State) : Answers (exec i s) s (commandCheck i s) (Effect s i) := by
  cases i with
  | halt => exact ⟨_, rfl, .inr ⟨rfl, .halt⟩⟩
  | nop => exact ⟨_, rfl, .inr ⟨rfl, .nop⟩⟩
  | setcur addr => exact ⟨_, rfl, .inr ⟨rfl, .setcur addr⟩⟩
  | crc src len =>
    refine (execCrc_answers src len s).imp fun _ t ht => ?_
    subst ht
    exact .crc src len _
  | crcchk crclen name =>
    refine (execCrcchk_answers crclen name s).imp fun _ t ht => ?_
    obtain ⟨-, rfl⟩ | ⟨-, -, rfl⟩ | ⟨-, -, rfl⟩ := ht
    · exact .crcchk crclen name s.crcr
    · exact .crcchk crclen name _
    · exact .mismatch crclen name _ _ _
  | unpack d src spr rows dst =>
    refine (execUnpack_answers d src spr rows dst s).imp fun _ t ht => ?_
    subst ht
    exact .finish (List.mem_of_elem_eq_true rfl) rfl fun _ => length_unpackRows _ _ _ _
  | pack d src spr rows dst =>
    refine (execPack_answers d src spr rows dst s).imp fun _ t ht => ?_
    exact ht.effect (List.mem_of_elem_eq_true rfl) rfl (fun _ h _ => length_packRows h) fun f h => by rw [packRows_error h]; rfl
  | unfilt bpp src rb rows dst =>
    refine (execUnfilt_answers bpp src rb rows dst s).imp fun _ t ht => ?_
    exact ht.effect (List.mem_of_elem_eq_true rfl) rfl (fun _ h _ => length_unfiltResult h) fun f h => by rw [unfiltResult_error h]; rfl
  | filt bpp kind src rb rows dst =>
    refine (execFilt_answers bpp kind src rb rows dst s).imp fun _ t ht => ?_
    subst ht
    exact .finish (List.mem_of_elem_eq_true rfl) rfl fun _ => length_filterPass _ _ _ _ _ (length_read _ _ _).ge
  | deint depth channels il src w h dst =>
    refine (execDeint_answers depth channels il src w h dst s).imp fun hcheck t ht => ?_
    obtain ⟨⟨hd, -⟩, -⟩ := deintCheck_eq_none.mp hcheck
    exact ht.effect (List.mem_of_elem_eq_true rfl) rfl (fun _ h _ => length_reassemble hd (length_read _ _ _) h)
      fun f h => by rw [reassemble_error h]; rfl
  | intl depth channels il src w h dst srclen =>
    refine (execIntl_answers depth channels il src w h dst srclen s).imp fun hcheck t ht => ?_
    obtain ⟨⟨hd, -⟩, -⟩ := intlCheck_eq_none.mp hcheck
    exact ht.effect (List.mem_of_elem_eq_true rfl) rfl (fun _ h _ => length_decompose hd (length_read _ _ _) h)
      fun f h => by rw [decompose_error h]; rfl
  | swap16 src n dst =>
    refine (execSwap16_answers src n dst s).imp fun _ t ht => ?_
    subst ht
    exact .finish (List.mem_of_elem_eq_true rfl) rfl fun _ => by simp
  | palld src n =>
    refine (execPalld_answers src n s).imp fun _ t ht => ?_
    subst ht
    exact .palld src n _
  | paltr src m =>
    refine (execPaltr_answers src m s).imp fun _ t ht => ?_
    subst ht
    exact .paltr src m _
  | palx depth src w h dst srclen =>
    refine (execPalx_answers depth src w h dst srclen s).imp fun hcheck t ht => ?_
    obtain ⟨hd, -, -, hlen, -⟩ := palxCheck_eq_none.mp hcheck
    exact ht.effect (List.mem_of_elem_eq_true rfl) rfl (fun _ h hc => length_expand hd ((length_read _ _ _).trans hlen) hc h)
      fun f h => by rw [expand_error h]; rfl
  | acfg channels ss canvas w h snap =>
    refine (execAcfg_answers channels ss canvas w h snap s).imp fun _ t ht => ?_
    subst ht
    exact .acfg channels ss canvas w h snap
  | compose dispose blend src fw fh out x y =>
    refine (execCompose_answers dispose blend src fw fh out x y s).imp fun _ t ht => ?_
    subst ht
    exact .compose dispose blend src fw fh out x y

/-- R102 step 6, for a command whose answer is known. -/
theorem exec_eq_next {i : Instr} {s t : State} (h : exec i s = .next t) :
    (∃ f, commandCheck i s = some f ∧ t = s.raise f) ∨ (commandCheck i s = none ∧ Effect s i t) := by
  obtain ⟨u, hu, hcases⟩ := exec_answers i s
  obtain rfl : u = t := by simpa [h] using hu.symm
  exact hcases

/-! ### What an effect leaves alone -/

section
variable {s t : State} {i : Instr}

/-- R29, R21, R8: no effect writes CFG, the latches or the open parameters. -/
theorem Effect.kept (h : Effect s i t) : t.cfg = s.cfg ∧ t.x = s.x ∧ t.config = s.config := by
  cases h <;> exact ⟨rfl, rfl, rfl⟩

/-- R30 to R38: each register is written only by its commands. -/
theorem Effect.registers (h : Effect s i t) :
    (i.opcode ∉ [.setcur, .crcchk] → t.cur = s.cur) ∧ (i.opcode ∉ [.crc, .crcchk] → t.crcr = s.crcr) ∧
    (i.opcode ∉ [.unpack, .pack, .unfilt, .filt, .deint, .intl, .swap16, .palx, .compose] → t.olen = s.olen) ∧
    (i.opcode ∉ [.palld, .paltr] → t.pal = s.pal) ∧ (i.opcode ∉ [.acfg, .compose] → t.comp = s.comp) := by
  cases h
  case finish hlen hop hrange =>
    refine ⟨fun _ => rfl, fun _ => rfl, fun hno => absurd ?_ hno, fun _ => rfl, fun _ => rfl⟩
    simp only [singleDestination, List.mem_cons, List.not_mem_nil, or_false] at hop ⊢
    tauto
  all_goals simp [Instr.opcode]

/-- R300: `t` is fault entry on a state whose registers are those of `s`, but for CRCR after a checksum that does not match. -/
def FaultExit (i : Instr) (s t : State) : Prop :=
  ∃ (u : State) (f : Raise), t = u.raise f ∧
    (u.cp = s.cp ∧ u.cur = s.cur ∧ u.olen = s.olen ∧ u.pal = s.pal ∧ u.comp = s.comp) ∧
    (u.crcr = s.crcr ∨ ∃ crclen name, i = .crcchk crclen name ∧ f.kind = .crcMismatch)

/-- How an effect ends: HALT; on, with CP advanced; or in fault entry, with CP and the other registers as they were. -/
theorem Effect.run_state (h : Effect s i t) :
    (i = .halt ∧ t = s.withStatus .done) ∨
    (t.status = s.status ∧ t.err = s.err ∧ t.cp = s.cp + 32) ∨
    FaultExit i s t := by
  cases h
  case halt => exact .inl ⟨rfl, rfl⟩
  case mismatch crclen name w stored computed =>
    exact .inr (.inr ⟨_, _, rfl, ⟨rfl, rfl, rfl, rfl, rfl⟩, .inr ⟨crclen, name, rfl, rfl⟩⟩)
  case badData => exact .inr (.inr ⟨_, _, rfl, ⟨rfl, rfl, rfl, rfl, rfl⟩, .inl rfl⟩)
  all_goals exact .inr (.inl ⟨rfl, rfl, rfl⟩)

/-- R300: a fault of a command is fault entry on a state whose registers are those of the state before it, but for CRCR. -/
theorem exec_run_state (hexec : exec i s = .next t) :
    (i = .halt ∧ t = s.withStatus .done) ∨
    (t.status = s.status ∧ t.err = s.err ∧ t.cp = s.cp + 32) ∨
    FaultExit i s t := by
  obtain ⟨f, -, rfl⟩ | ⟨-, heffect⟩ := exec_eq_next hexec
  · exact .inr (.inr ⟨s, f, rfl, ⟨rfl, rfl, rfl, rfl, rfl⟩, .inl rfl⟩)
  · exact heffect.run_state

theorem exec_kept (hexec : exec i s = .next t) : t.cfg = s.cfg ∧ t.x = s.x ∧ t.config = s.config := by
  obtain ⟨f, -, rfl⟩ | ⟨-, heffect⟩ := exec_eq_next hexec
  · exact ⟨rfl, rfl, rfl⟩
  · exact heffect.kept

end

/-! ### The obligations about registers -/

theorem exists_exec (i : Instr) (s : State) : ∃ t, exec i s = .next t := by
  obtain ⟨t, ht, -⟩ := exec_answers i s
  exact ⟨t, ht⟩

/-- Settles O8: every branch of a step answers, and so does every command. -/
theorem everyStepAnswersANextState : Obligations.EveryStepAnswersANextState := by
  unfold Obligations.EveryStepAnswersANextState
  refine ⟨fun s => ?_, exists_exec⟩
  unfold step
  split_ifs
  · split
    · exact exists_exec _ _
    · exact ⟨_, rfl⟩
  · exact ⟨_, rfl⟩
  · exact ⟨_, rfl⟩

/-- Settles O9: by how the command ends. -/
theorem commandPointerRule : Obligations.CommandPointerRule := by
  unfold Obligations.CommandPointerRule
  intro i s t hbusy hexec
  obtain ⟨-, rfl⟩ | ⟨hstatus, -, hcp⟩ | ⟨u, f, rfl, ⟨hcp, -⟩, -⟩ := exec_run_state hexec
  · simp
  · simp [hstatus, hbusy, hcp, BitVec.toNat_add]
  · simp [hcp]

/-- Settles O46: a fault is fault entry on a state that differs at most in memory and CRCR. -/
theorem faultEntryChangesNothingElse : Obligations.FaultEntryChangesNothingElse := by
  unfold Obligations.FaultEntryChangesNothingElse
  intro i s t hbusy hexec herr
  obtain ⟨hcfg, hx, hconfig⟩ := exec_kept hexec
  obtain ⟨-, rfl⟩ | ⟨hstatus, -⟩ | ⟨u, f, rfl, ⟨hcp, hcur, holen, hpal, hcomp⟩, hcrcr⟩ := exec_run_state hexec
  · simp at herr
  · simp [hstatus, hbusy] at herr
  · refine ⟨f.kind.code_bounds, hcp, ⟨hcp, hcur, holen, hcfg, hx, hpal, hcomp, hconfig⟩, hcrcr.imp_right ?_⟩
    rintro ⟨crclen, name, rfl, hkind⟩
    exact ⟨crclen, name, rfl, by simp [hkind, EngineFault.code]⟩

/-- Settles O49: fault entry by the check writes none of them, and each effect only its own. -/
theorem registersAreWrittenOnlyByTheirCommands : Obligations.RegistersAreWrittenOnlyByTheirCommands := by
  unfold Obligations.RegistersAreWrittenOnlyByTheirCommands
  intro i s t hexec
  refine ⟨exec_kept hexec, ?_⟩
  obtain ⟨f, -, rfl⟩ | ⟨-, heffect⟩ := exec_eq_next hexec
  · simp
  · exact heffect.registers

/-- Settles O51: by how the command ends. -/
theorem engineRunStateTransitions : Obligations.EngineRunStateTransitions := by
  unfold Obligations.EngineRunStateTransitions
  refine ⟨fun s => step_of_not_busy, fun s t hbusy hstep => ?_⟩
  by_cases hfit : s.cp.toNat + 32 ≤ s.config.memSize
  · cases hdecode : decode s.descriptorAtCp with
    | error e =>
      rw [step_of_decode_error hbusy hfit hdecode] at hstep
      obtain rfl := Host.Outcome.next.inj hstep
      simp
    | ok i =>
      rw [step_of_decode_ok hbusy hfit hdecode] at hstep
      obtain ⟨rfl, rfl⟩ | ⟨hstatus, -⟩ | ⟨u, f, rfl, -⟩ := exec_run_state hstep
      · simp
      · exact .inl (hstatus.trans hbusy)
      · simp
  · rw [step_of_not_fits hbusy (by omega)] at hstep
    obtain rfl := Host.Outcome.next.inj hstep
    simp

/-! ### Termination (R339) -/

/-- R339: a step that leaves the engine BUSY moves CP on inside MEM. -/
theorem step_of_busy {s t : State} (hbusy : s.status = .busy) (hstep : step s = .next t) :
    State.ended t ∨ (t.status = .busy ∧ t.config = s.config ∧ t.cp = s.cp + 32 ∧ s.cp.toNat + 32 ≤ s.config.memSize) := by
  by_cases hfit : s.cp.toNat + 32 ≤ s.config.memSize
  · cases hdecode : decode s.descriptorAtCp with
    | error e =>
      rw [step_of_decode_error hbusy hfit hdecode] at hstep
      obtain rfl := Host.Outcome.next.inj hstep
      exact .inl (.inr rfl)
    | ok i =>
      rw [step_of_decode_ok hbusy hfit hdecode] at hstep
      obtain ⟨-, rfl⟩ | ⟨hstatus, -, hcp⟩ | ⟨u, f, rfl, -⟩ := exec_run_state hstep
      · exact .inl (.inl rfl)
      · exact .inr ⟨hstatus.trans hbusy, (exec_kept hstep).2.2, hcp, hfit⟩
      · exact .inl (.inr rfl)
  · rw [step_of_not_fits hbusy (by omega)] at hstep
    obtain rfl := Host.Outcome.next.inj hstep
    exact .inl (.inr rfl)

theorem run_succ_of_step (M : Host.Core) {s t : M.State} (h : M.step s = .next t) (k : Nat) : M.run (k + 1) s = M.run k t := by
  simp only [Host.Core.run, h]

/-- R339: from BUSY, as many steps as descriptors fit from CP on, and one more, end the run. -/
theorem busy_run_ends (n : Nat) {s : State} (hsize : s.config.memSize < 2 ^ 32) (hbusy : s.status = .busy)
    (hn : s.config.memSize - s.cp.toNat ≤ 32 * n + 31) :
    ∃ k ≤ n + 1, ∃ t, Host.Core.run Sys2Proof.core k s = .next t ∧ State.ended t := by
  obtain ⟨t, hstep⟩ := everyStepAnswersANextState.1 s
  obtain hended | ⟨hbusy', hconfig, hcp, hfit⟩ := step_of_busy hbusy hstep
  · exact ⟨1, by omega, t, run_succ_of_step core hstep 0, hended⟩
  · cases n with
    | zero => omega
    | succ n =>
      have hcp' : t.cp.toNat = s.cp.toNat + 32 := by
        rw [hcp, BitVec.toNat_add, Nat.mod_eq_of_lt (by simp; omega)]; rfl
      obtain ⟨k, hk, u, hrun, hended⟩ := busy_run_ends n (hconfig ▸ hsize) hbusy' (by rw [hconfig, hcp']; omega)
      exact ⟨k + 1, by omega, u, (run_succ_of_step core hstep k).trans hrun, hended⟩

/-- Settles O52: a stopped engine needs no step, a BUSY one as many as descriptors fit. -/
theorem everyRunEnds : Obligations.EveryRunEnds := by
  unfold Obligations.EveryRunEnds
  intro s hsize
  by_cases hbusy : s.status = .busy
  · obtain ⟨k, hk, t, hrun, hended⟩ := busy_run_ends (s.config.memSize / 32) hsize hbusy (by omega)
    refine ⟨k, hk, t, hrun, ?_, fun _ => hended⟩
    rcases hended with h | h <;> simp [h]
  · exact ⟨0, by omega, s, rfl, hbusy, fun h => absurd h hbusy⟩

end Sys2Proof.Machine
end

section
/-!
PROOFS about memory and the standing facts of a state (R20, R38, R60, R67, R70, R322). Every effect makes of memory a sequence of
writes inside the command's written ranges (`Effect.mem_induction`), so whatever such writes keep, commands keep: the canonical form,
the bound of MEMSIZE, and every byte outside the ranges.
-/

namespace Sys2Proof.Machine

open Sys2Proof.Claims

/-! ### The writes of COMPOSE (R243, R244, R250) -/

/-- The range `(a, n)` lies inside the range `r`. -/
def InsideRange (r : Nat × Nat) (a n : Nat) : Prop := r.1 ≤ a ∧ a + n ≤ r.1 + r.2

/-- R240: `n` pixels of a canvas row lie inside the canvas. -/
theorem pixels_inside_canvas {c : Compositor} {x y n : Nat} (hx : x + n ≤ c.aw.toNat) (hy : y < c.ah.toNat) :
    InsideRange (c.acanvas.toNat, c.cb) (c.pixelAddr x y) (n * c.px) := by
  refine ⟨Nat.le_add_right _ _, ?_⟩
  have hrow : y * c.aw.toNat + x + n ≤ c.aw.toNat * c.ah.toNat := by
    have := block_le (k := c.aw.toNat) hy
    rw [Nat.mul_comm c.aw.toNat]; omega
  have := Nat.mul_le_mul_right c.px hrow
  rw [Nat.add_mul] at this
  simp only [Compositor.pixelAddr, Compositor.cb]
  omega

/-- R250: the effective rectangle lies in the canvas. -/
theorem effectiveRect_inside {s : State} {dispose blend : Byte} {src fw fh out x y : Word}
    (h : ComposeReady s dispose blend src fw fh out x y) :
    let e := effectiveRect s.comp blend fw fh x y
    e.ex + e.ew ≤ s.comp.aw.toNat ∧ e.ey + e.eh ≤ s.comp.ah.toNat := by
  obtain ⟨-, -, -, hlater, -⟩ := h
  unfold effectiveRect
  split
  · simp
  · next hframes =>
    obtain ⟨-, -, hw, hh⟩ := hlater hframes
    exact ⟨hw, hh⟩

section
variable {P : Memory → Prop} {c : Compositor}
  (hcanvas : ∀ m a bs, P m → InsideRange (c.acanvas.toNat, c.cb) a bs.length → P (m.write a bs))
include hcanvas

/-- R243: the dispose step writes inside the canvas. -/
theorem disposePrevious_induction (hinv : c.Inv) {m : Memory} (hm : P m) : P (disposePrevious c m) := by
  unfold disposePrevious
  split
  · refine List.foldlRecOn _ _ hm fun m hm r hr => hcanvas _ _ _ hm ?_
    have hr : r < c.aph.toNat := List.mem_range.mp hr
    rw [length_zeros]
    exact pixels_inside_canvas hinv.rectX (by have := hinv.rectY; omega)
  · exact hcanvas _ _ _ hm ⟨le_rfl, by simp⟩
  · exact hm

/-- R244, R245: drawing writes inside the canvas. -/
theorem drawFrame_induction {inst : Config.OverInstance} {hle : Bool} {src : Nat} {e : FrameRect}
    (hx : e.ex + e.ew ≤ c.aw.toNat) (hy : e.ey + e.eh ≤ c.ah.toNat) {m : Memory} (hm : P m) :
    P (drawFrame inst hle c src e m) := by
  refine List.foldlRecOn _ _ hm fun m hm row hrow => ?_
  refine List.foldlRecOn _ _ hm fun m hm col hcol => hcanvas _ _ _ hm ?_
  have hrow : row < e.eh := List.mem_range.mp hrow
  have hcol : col < e.ew := List.mem_range.mp hcol
  have hlen : (if e.isOver then overPixel inst hle c m (src + (row * e.ew + col) * c.px)
      (c.pixelAddr (e.ex + col) (e.ey + row)) else m.read (src + (row * e.ew + col) * c.px) c.px).length = 1 * c.px := by
    split <;> simp
  rw [hlen]
  exact pixels_inside_canvas (by omega) (by omega)

/-- R250: COMPOSE writes inside the canvas, and the whole snapshot and output. -/
theorem composeMemory_induction {inst : Config.OverInstance} {hle : Bool} {src out : Nat} {e : FrameRect} (hinv : c.Inv)
    (hx : e.ex + e.ew ≤ c.aw.toNat) (hy : e.ey + e.eh ≤ c.ah.toNat)
    (hsnap : ∀ m bs, P m → bs.length = c.cb → P (m.write c.asnap.toNat bs))
    (hout : ∀ m bs, P m → bs.length = c.cb → P (m.write out bs)) {m : Memory} (hm : P m) :
    P (composeMemory inst hle c src out e m) := by
  refine hout _ _ (drawFrame_induction hcanvas hx hy (hsnap _ _ ?_ (length_read _ _ _))) (length_read _ _ _)
  split
  · exact hcanvas _ _ _ hm ⟨le_rfl, by simp⟩
  · exact disposePrevious_induction hcanvas hinv hm

end

/-! ### The written ranges of a command -/

/-- The written ranges of the claims are the model's. -/
theorem writtenRanges_eq (s : State) (i : Instr) :
    writtenRanges s i = ((memRanges i s).filter (·.written)).map fun r => (r.addr, r.len) := by
  cases i <;> rfl

/-- A command whose check passes writes inside MEM: its check holds its range check (R66). -/
theorem checkRanges_of_writeCheck {i : Instr} {s : State} (h : writeCheck i s = none) : checkRanges s (memRanges i s) = none := by
  cases i
  case halt | nop | setcur | crc | crcchk | palld | paltr | acfg => rfl
  all_goals exact firstRaise_eq_none.mp h _ (by simp [memRanges])

theorem writtenRanges_fit {i : Instr} {s : State} (h : writeCheck i s = none) :
    ∀ r ∈ writtenRanges s i, r.2 = 0 ∨ r.1 + r.2 ≤ s.config.memSize := by
  have hall := checkRanges_eq_none.mp (checkRanges_of_writeCheck h)
  rw [writtenRanges_eq]
  intro r hr
  obtain ⟨q, hq, rfl⟩ := List.mem_map.mp hr
  exact hall q (List.mem_of_mem_filter hq)

theorem writeCheck_of_commandCheck {i : Instr} {s : State} (h : commandCheck i s = none) : writeCheck i s = none := by
  cases i
  case crc | crcchk | palld | paltr | acfg => rfl
  all_goals exact h

/-- What writes inside the written ranges keep, an effect keeps. -/
theorem Effect.mem_induction {P : Memory → Prop} {s t : State} {i : Instr} (h : Effect s i t)
    (hcheck : commandCheck i s = none) (hcomp : s.comp.Inv) (hpal : s.pal.palc.toNat ≤ 4) (hm : P s.mem)
    (hwrite : ∀ m a bs, P m → (∃ r ∈ writtenRanges s i, InsideRange r a bs.length) → P (m.write a bs)) : P t.mem := by
  cases h
  case finish hlen hop hrange =>
    exact hwrite _ _ _ hm ⟨_, by rw [hrange]; exact List.mem_singleton_self _, le_rfl, by rw [hlen hpal]⟩
  case badData hop hrange hdata =>
    exact hwrite _ _ _ hm ⟨_, by rw [hrange]; exact List.mem_singleton_self _, le_rfl, by simp⟩
  case compose dispose blend src fw fh out x y =>
    obtain ⟨hx, hy⟩ := effectiveRect_inside (composeCheck_eq_none.mp hcheck)
    refine composeMemory_induction (fun m a bs hm hin => ?_) hcomp hx hy (fun m bs hm hlen => ?_) (fun m bs hm hlen => ?_) hm
    · exact hwrite m a bs hm ⟨_, by simp [writtenRanges], hin⟩
    · exact hwrite m _ bs hm ⟨(s.comp.asnap.toNat, s.comp.cb), by simp [writtenRanges], le_rfl, by rw [hlen]⟩
    · exact hwrite m _ bs hm ⟨(out.toNat, s.comp.cb), by simp [writtenRanges], le_rfl, by rw [hlen]⟩
  all_goals exact hm

/-- A write inside the written ranges leaves every byte outside them alone. -/
theorem byte_write_of_outside {rs : List (Nat × Nat)} {b : Nat} (hb : Outside rs b) {m : Memory} {a : Nat} {bs : List Byte}
    (h : ∃ r ∈ rs, InsideRange r a bs.length) : (m.write a bs).byte b = m.byte b := by
  obtain ⟨r, hr, hlow, hhigh⟩ := h
  refine Memory.byte_write_outside _ _ _ _ ?_
  rcases hb r hr with h | h <;> omega

/-- A write inside written ranges that are admitted lists no address outside MEM. -/
theorem write_inside_of_fit {s : State} {i : Instr} (hcheck : writeCheck i s = none) {m : Memory} {a : Nat} {bs : List Byte}
    (hm : ∀ c ∈ m, c.1 < s.config.memSize) (h : ∃ r ∈ writtenRanges s i, InsideRange r a bs.length) :
    ∀ c ∈ m.write a bs, c.1 < s.config.memSize := by
  obtain ⟨r, hr, hlow, hhigh⟩ := h
  refine Memory.write_inside hm a bs ?_
  rcases writtenRanges_fit hcheck r hr with h | h <;> omega

theorem Palette.Inv.palc_le {p : Palette} (h : p.Inv) : p.palc.toNat ≤ 4 := by
  rcases h.palc_cases with h | h | h <;> simp [h]

/-- Settles O50: fault entry by the check writes nothing, and an effect writes inside the ranges. -/
theorem memoryIsWrittenOnlyInsideTheRanges : Obligations.MemoryIsWrittenOnlyInsideTheRanges := by
  unfold Obligations.MemoryIsWrittenOnlyInsideTheRanges
  intro i s t hcomp hpal hexec b hb
  obtain ⟨f, -, rfl⟩ | ⟨hcheck, heffect⟩ := exec_eq_next hexec
  · rfl
  · exact heffect.mem_induction (P := fun m => m.byte b = s.mem.byte b) hcheck hcomp hpal.palc_le rfl
      fun m a bs hm hin => (byte_write_of_outside hb hin).trans hm

/-- Settles O47: a fault writes memory only after bad data, and then only the destination. -/
theorem memoryAfterAFault : Obligations.MemoryAfterAFault := by
  unfold Obligations.MemoryAfterAFault
  intro i s t hbusy hexec herr
  obtain ⟨f, -, rfl⟩ | ⟨-, heffect⟩ := exec_eq_next hexec
  · exact ⟨fun _ _ => rfl, fun _ _ => rfl⟩
  · cases heffect
    case mismatch => exact ⟨fun _ _ => rfl, fun _ _ => rfl⟩
    case badData hop hrange hdata =>
      refine ⟨fun hno => absurd hdata (by simpa using hno), fun b hb => ?_⟩
      rw [hrange] at hb
      have hb := hb _ (List.mem_singleton_self _)
      rw [State.raise_mem, State.byte_scribble, if_neg (by omega)]
    all_goals exact absurd herr (by simp [hbusy])

/-! ### The invariant (R8, R33, R34, R38, R60) -/

/-- R300: fault entry keeps the standing facts. -/
theorem State.Inv.raise {s : State} (h : s.Inv) (f : Raise) : (s.raise f).Inv :=
  { h with faults := ⟨fun hno => absurd rfl hno, fun _ => f.kind.code_bounds⟩ }

/-- R102 step 2: loading the latches keeps the standing facts. -/
theorem State.Inv.fetched {s : State} (h : s.Inv) : s.fetched.Inv :=
  { h with faults := ⟨h.faults.clear, h.faults.code⟩ }

/-- R221, R223: the palette unit stays within its bounds. -/
theorem Effect.palette_inv {s t : State} {i : Instr} (h : Effect s i t) (hcheck : commandCheck i s = none)
    (hinv : s.pal.Inv) : t.pal.Inv := by
  cases h
  case palld src n lut =>
    obtain ⟨-, hcount, -⟩ := palldCheck_eq_none.mp hcheck
    refine ⟨?_, .inr (.inl rfl), fun h0 => absurd h0 (show (3 : Word) ≠ 0 by decide)⟩
    change (BitVec.ofNat 32 (n.toNat / 3)).toNat ≤ 256
    rw [BitVec.toNat_ofNat]
    exact (Nat.mod_le _ _).trans hcount
  case paltr src m lut =>
    exact ⟨hinv.paln_le, .inr (.inr rfl), fun h0 => absurd h0 (show (4 : Word) ≠ 0 by decide)⟩
  all_goals exact hinv

/-- R242: a fresh configuration has its pixel format and canvas, and no frame. -/
theorem configured_inv {channels ss : Byte} {canvas w h snap : Word} (hcheck : acfgCheck channels ss w h = none) :
    (configured channels ss canvas w h snap).Inv := by
  obtain ⟨hchannels, hss, -, hh⟩ := acfgCheck_eq_none.mp hcheck
  have hach : (channels.setWidth 32).toNat = channels.toNat := BitVec.toNat_setWidth_of_le (by decide)
  have hass : (ss.setWidth 32).toNat = ss.toNat := BitVec.toNat_setWidth_of_le (by decide)
  have hnum : (0#32).toNat = 0 := rfl
  exact {
    unconfigured := fun _ => rfl
    channels := fun _ => by rw [configured, hach]; exact hchannels
    sampleBytes := fun _ => by
      simp only [configured, ← BitVec.toNat_inj, hass]
      simpa using hss
    height := fun _ h0 => by
      have : h = 0#32 := h0
      rw [this, hnum] at hh
      omega
    rectX := Nat.zero_le _
    rectY := Nat.zero_le _
    dispose_le := Nat.zero_le _ }

/-- R250: the record of a frame is its rectangle, which lies in the canvas, and its dispose tag. -/
theorem recordFrame_inv {s : State} {dispose blend : Byte} {src fw fh out x y : Word} (hinv : s.comp.Inv)
    (hready : ComposeReady s dispose blend src fw fh out x y) :
    (recordFrame s.comp dispose (effectiveRect s.comp blend fw fh x y)).Inv := by
  obtain ⟨hx, hy⟩ := effectiveRect_inside hready
  obtain ⟨hdispose, -, haw, -⟩ := hready
  exact {
    unconfigured := fun h0 => absurd h0 haw
    channels := hinv.channels
    sampleBytes := hinv.sampleBytes
    height := hinv.height
    rectX := by
      simp only [recordFrame, BitVec.toNat_ofNat]
      exact (Nat.add_le_add (Nat.mod_le _ _) (Nat.mod_le _ _)).trans hx
    rectY := by
      simp only [recordFrame, BitVec.toNat_ofNat]
      exact (Nat.add_le_add (Nat.mod_le _ _) (Nat.mod_le _ _)).trans hy
    dispose_le := by
      simp only [recordFrame, BitVec.toNat_setWidth]
      exact (Nat.mod_le _ _).trans hdispose }

theorem Effect.compositor_inv {s t : State} {i : Instr} (h : Effect s i t) (hcheck : commandCheck i s = none)
    (hinv : s.comp.Inv) : t.comp.Inv := by
  cases h
  case acfg => exact configured_inv hcheck
  case compose => exact recordFrame_inv hinv (composeCheck_eq_none.mp hcheck)
  all_goals exact hinv

/-- R33: the fault registers stay clear until a command faults. -/
theorem exec_faults_inv {s t : State} {i : Instr} (hbusy : s.status = .busy) (hexec : exec i s = .next t)
    (hinv : FaultRecordInv s) : FaultRecordInv t := by
  have hclear : s.err = .zero := hinv.clear (by simp [hbusy])
  obtain ⟨-, rfl⟩ | ⟨hstatus, herr, -⟩ | ⟨u, f, rfl, -⟩ := exec_run_state hexec
  · exact ⟨fun _ => hclear, fun h => absurd h (by simp)⟩
  · exact ⟨fun _ => herr.trans hclear, fun h => absurd h (by simp [hstatus, hbusy])⟩
  · exact ⟨fun h => absurd rfl h, fun _ => f.kind.code_bounds⟩

/-- Every command of a running engine keeps the standing facts. -/
theorem exec_inv {s t : State} {i : Instr} (hbusy : s.status = .busy) (hinv : s.Inv) (hexec : exec i s = .next t) : t.Inv := by
  obtain ⟨-, -, hconfig⟩ := exec_kept hexec
  have hfaults := exec_faults_inv hbusy hexec hinv.faults
  obtain ⟨f, -, rfl⟩ | ⟨hcheck, heffect⟩ := exec_eq_next hexec
  · exact hinv.raise f
  · have hpal := hinv.palette.palc_le
    exact {
      params := hconfig ▸ hinv.params
      memWf := heffect.mem_induction (P := Memory.wf) hcheck hinv.compositor hpal hinv.memWf
        fun m a bs hm _ => Memory.write_wf hm a bs
      memInside := by
        rw [hconfig]
        exact heffect.mem_induction (P := fun m => ∀ c ∈ m, c.1 < s.config.memSize) hcheck hinv.compositor hpal hinv.memInside
          fun m a bs hm hin => write_inside_of_fit (writeCheck_of_commandCheck hcheck) hm hin
      palette := heffect.palette_inv hcheck hinv.palette
      compositor := heffect.compositor_inv hcheck hinv.compositor
      faults := hfaults }

/-- Settles O53: fault entry changes none of the facts, and each command keeps each of them. -/
theorem everyStepKeepsTheInvariant : Obligations.EveryStepKeepsTheInvariant := by
  unfold Obligations.EveryStepKeepsTheInvariant
  intro s t hinv hstep
  by_cases hbusy : s.status = .busy
  case neg =>
    rw [step_of_not_busy hbusy] at hstep
    exact Host.Outcome.next.inj hstep ▸ hinv
  by_cases hfit : s.cp.toNat + 32 ≤ s.config.memSize
  case neg =>
    rw [step_of_not_fits hbusy (by omega)] at hstep
    exact Host.Outcome.next.inj hstep ▸ hinv.raise _
  cases hdecode : decode s.descriptorAtCp with
  | error e =>
    rw [step_of_decode_error hbusy hfit hdecode] at hstep
    exact Host.Outcome.next.inj hstep ▸ hinv.fetched.raise _
  | ok i =>
    rw [step_of_decode_ok hbusy hfit hdecode] at hstep
    exact exec_inv (s := s.fetched) hbusy hinv.fetched hstep

/-! ### Reset in the middle of a command (R322) -/

/-- An abandoned command makes unspecified writes to its written ranges, and changes no register but the model's own counter. -/
theorem abandonCommand_induction {P : Memory → Prop} {s : State} {i : Instr} (hm : P s.mem)
    (hwrite : ∀ m a bs, writeCheck i s = none → P m → (∃ r ∈ writtenRanges s i, InsideRange r a bs.length) → P (m.write a bs)) :
    P (abandonCommand i s).mem ∧ (abandonCommand i s).config = s.config := by
  unfold abandonCommand
  cases hcheck : writeCheck i s with
  | some f => exact ⟨hm, rfl⟩
  | none =>
    refine List.foldlRecOn (motive := fun u : State => P u.mem ∧ u.config = s.config) _ _ ⟨hm, rfl⟩ fun u hu r hr => ⟨?_, hu.2⟩
    refine hwrite _ _ _ hcheck hu.1 ⟨(r.addr, r.len), ?_, le_rfl, by simp⟩
    rw [writtenRanges_eq]
    exact List.mem_map_of_mem hr

/-- R322: what writes inside the written ranges of the command at CP keep, a reset in the middle of it keeps. -/
theorem resetMidCommand_induction {P : Memory → Prop} {s : State} (hm : P s.mem)
    (hwrite : ∀ i m a bs, decode s.descriptorAtCp = .ok i → writeCheck i s = none → P m →
      (∃ r ∈ writtenRanges s i, InsideRange r a bs.length) → P (m.write a bs)) :
    ∃ u : State, resetMidCommand s = u.resetRegs ∧ u.config = s.config ∧ P u.mem := by
  unfold resetMidCommand
  split
  · cases hdecode : decode s.descriptorAtCp with
    | error e => exact ⟨s, rfl, rfl, hm⟩
    | ok i =>
      obtain ⟨hmem, hconfig⟩ := abandonCommand_induction hm fun m a bs => hwrite i m a bs hdecode
      exact ⟨_, rfl, hconfig, hmem⟩
  · exact ⟨s, rfl, rfl, hm⟩

/-- R50: the compositor's registers after reset. -/
theorem compositorZero_inv : Compositor.zero.Inv :=
  ⟨fun _ => rfl, fun h => absurd rfl h, fun h => absurd rfl h, fun h => absurd rfl h, by decide, by decide, by decide⟩

/-- R50, R320: the registers after a reset meet the standing facts. -/
theorem resetRegs_inv {s : State} (hparams : s.config.Legal) (hwf : s.mem.wf) (hinside : ∀ c ∈ s.mem, c.1 < s.config.memSize) :
    s.resetRegs.Inv where
  params := hparams
  memWf := hwf
  memInside := hinside
  palette := ⟨Nat.zero_le _, .inl rfl, fun _ => rfl⟩
  compositor := compositorZero_inv
  faults := ⟨fun _ => rfl, fun h => absurd h (by simp)⟩

/-! ### The host's moves (R333) -/

/-- R323: GO keeps the standing facts: it starts an engine that has not faulted. -/
theorem hostGo_inv {s : State} (hinv : s.Inv) : (hostGo s).Inv := by
  have hstart (hclear : s.status ≠ .err) : (s.withStatus .busy).Inv :=
    { hinv with faults := ⟨fun _ => hinv.faults.clear hclear, fun h => absurd h (by simp)⟩ }
  unfold hostGo
  cases hstatus : s.status with
  | idle => exact hstart (by simp [hstatus])
  | done => exact hstart (by simp [hstatus])
  | busy => exact hinv
  | err => exact hinv

theorem hostWriteReg_inv {s t : State} {n : Nat} {v : Word} (hinv : s.Inv) (h : hostWriteReg s n v = .next t) : t.Inv := by
  have hreset : s.resetRegs.Inv := resetRegs_inv hinv.params hinv.memWf hinv.memInside
  unfold hostWriteReg hostWriteCtrl at h
  split_ifs at h
  · exact Host.Outcome.next.inj h ▸ hreset
  · exact Host.Outcome.next.inj h ▸ hostGo_inv hinv
  · exact Host.Outcome.next.inj h ▸ hinv
  · split at h <;> obtain rfl := Host.Outcome.next.inj h
    case h_4 => exact hinv
    all_goals exact { hinv with faults := ⟨hinv.faults.clear, hinv.faults.code⟩ }

theorem hostWriteMem_inv {s t : State} {a : Nat} {b : Byte} (hinv : s.Inv) (h : hostWriteMem s a b = .next t) : t.Inv := by
  unfold hostWriteMem at h
  split_ifs at h with hbusy hlt
  obtain rfl := Host.Outcome.next.inj h
  exact { hinv with
    memWf := Memory.write_wf hinv.memWf _ _
    memInside := Memory.write_inside hinv.memInside _ _ (.inr (Nat.succ_le_of_lt hlt))
    faults := ⟨hinv.faults.clear, hinv.faults.code⟩ }

theorem resetMidCommand_inv {s : State} (hinv : s.Inv) : (resetMidCommand s).Inv := by
  obtain ⟨u, hu, hconfig, hwf, hinside⟩ :=
    resetMidCommand_induction (s := s) (P := fun m => m.wf ∧ ∀ c ∈ m, c.1 < s.config.memSize)
      ⟨hinv.memWf, hinv.memInside⟩
      fun i m a bs _ hcheck hm hin => ⟨Memory.write_wf hm.1 _ _, write_inside_of_fit hcheck hm.2 hin⟩
  rw [hu]
  exact resetRegs_inv (hconfig ▸ hinv.params) hwf (hconfig ▸ hinside)

/-- Settles O54: move by move. -/
theorem everyHostMoveKeepsTheInvariant : Obligations.EveryHostMoveKeepsTheInvariant := by
  unfold Obligations.EveryHostMoveKeepsTheInvariant
  intro a s t hinv h
  cases a with
  | hardReset => exact Host.Outcome.next.inj h ▸ resetRegs_inv hinv.params hinv.memWf hinv.memInside
  | resetDuringCommand => exact Host.Outcome.next.inj h ▸ resetMidCommand_inv hinv
  | writeReg n v => exact hostWriteReg_inv hinv h
  | writeMem a b => exact hostWriteMem_inv hinv h

/-- R50: the state after power-on meets the standing facts. -/
theorem resetWith_inv {config : Config.Params} (h : config.Legal) : (State.resetWith config).Inv where
  params := h
  memWf := Memory.wf_nil
  memInside := fun c hc => absurd hc List.not_mem_nil
  palette := ⟨Nat.zero_le _, .inl rfl, fun _ => rfl⟩
  compositor := compositorZero_inv
  faults := ⟨fun _ => rfl, fun h => absurd h (by simp)⟩

/-- Settles O55: the invariant holds at reset, and every step and move keeps it. -/
theorem everyReachableStateHasTheInvariant : Obligations.EveryReachableStateHasTheInvariant := by
  unfold Obligations.EveryReachableStateHasTheInvariant
  refine ⟨resetWith_inv ⟨by decide, by decide⟩, fun config s hlegal hreach => ?_⟩
  induction hreach with
  | reset => exact resetWith_inv hlegal
  | step s t _ hstep ih => exact everyStepKeepsTheInvariant s t ih hstep
  | host a s t _ hstep ih => exact everyHostMoveKeepsTheInvariant a s t ih hstep

end Sys2Proof.Machine
end

section
/-!
PROOFS about well-formed commands (R97). A well-formed command passes the checks of its own fields, so what its whole check can still
raise is about ranges, sizes and the engine's registers.
-/

namespace Sys2Proof.Machine

open Sys2Proof.Claims

/-! ### Which faults a check can raise -/

/-- Whatever the check raises is one of the faults `ks`. -/
def Raises (ks : List EngineFault) (c : Option Raise) : Prop := ∀ f, c = some f → f.kind ∈ ks

section
variable {ks : List EngineFault} {c : Option Raise}

theorem Raises.pass : Raises ks none := fun _ h => nomatch h

theorem Raises.of_eq_none (h : c = none) : Raises ks c := h ▸ Raises.pass

theorem Raises.nil : Raises ks (firstRaise []) := Raises.pass

/-- R296: a list of checks raises what one of them raises. -/
theorem Raises.cons {cs : List (Option Raise)} (hc : Raises ks c) (hcs : Raises ks (firstRaise cs)) :
    Raises ks (firstRaise (c :: cs)) := by
  cases c with
  | none => exact hcs
  | some g => exact hc

/-- R16: a check raises the fault it names. -/
theorem Raises.require {b : Bool} {g : Raise} (hg : g.kind ∈ ks) : Raises ks (require b g) := fun _ hf =>
  (require_eq_some.mp hf).2 ▸ hg

/-- R66: a range check raises ACCESS. -/
theorem Raises.ranges {s : State} {rs : List MemRange} (hk : .access ∈ ks) : Raises ks (checkRanges s rs) := by
  have hfrom (k : Nat) : Raises ks (accessFrom s.config.memSize k rs) := by
    induction rs generalizing k with
    | nil => exact Raises.pass
    | cons r rs ih =>
      rw [accessFrom]
      split
      · exact ih (k + 1)
      · rintro f ⟨⟩
        exact hk
  exact hfrom 1

theorem Raises.overlapWith {i j : Nat} {r : MemRange} {qs : List MemRange} (hk : .overlap ∈ ks) :
    Raises ks (overlapWith i r j qs) := by
  induction qs generalizing j with
  | nil => exact Raises.pass
  | cons q qs ih =>
    rw [Machine.overlapWith]
    split
    · rintro f ⟨⟩
      exact hk
    · exact ih

/-- R67: an overlap check raises OVERLAP. -/
theorem Raises.overlap {rs : List MemRange} (hk : .overlap ∈ ks) : Raises ks (checkOverlap rs) := by
  have hfrom (i : Nat) : Raises ks (overlapFrom i rs) := by
    induction rs generalizing i with
    | nil => exact Raises.pass
    | cons r rs ih =>
      rw [overlapFrom]
      split
      · next hf => exact fun g hg => Raises.overlapWith hk g (hf.trans hg)
      · exact ih (i + 1)
  exact hfrom 1

/-- R66, R67: the range checks at the end of a command's list. -/
theorem Raises.ranges_overlap {s : State} {rs qs : List MemRange} (hk : .access ∈ ks) (hk' : .overlap ∈ ks) :
    Raises ks (firstRaise [checkRanges s rs, checkOverlap qs]) := .cons (.ranges hk) (.cons (.overlap hk') .nil)

end

/-! ### Field checks of well-formed commands -/

/-- R97: a check of a legal field passes. -/
theorem require_of_true {b : Bool} (h : b = true) (g : Raise) : require b g = none := require_eq_none.mpr h

theorem checkSubByteDepth_of_legal {d : Byte} (h : subByteDepth d = true) : checkSubByteDepth d = none := by
  refine require_of_true ?_ _
  simp only [subByteDepth, Bool.or_eq_true, beq_iff_eq] at h
  rcases h with (rfl | rfl) | rfl <;> rfl

theorem checkImageDepth_of_legal {d : Byte} (h : imageDepth d = true) : checkImageDepth d = none := by
  refine require_of_true ?_ _
  simp only [imageDepth, Bool.or_eq_true, beq_iff_eq] at h
  rcases h with (((rfl | rfl) | rfl) | rfl) | rfl <;> rfl

theorem checkIndexDepth_of_legal {d : Byte} (h : indexDepth d = true) : checkIndexDepth d = none := by
  refine require_of_true ?_ _
  simp only [indexDepth, Bool.or_eq_true, beq_iff_eq] at h
  rcases h with ((rfl | rfl) | rfl) | rfl <;> rfl

theorem checkSampleBytes_of_legal {ss : Byte} (h : legalSampleBytes ss = true) : checkSampleBytes ss = none := by
  refine require_of_true ?_ _
  simp only [legalSampleBytes, Bool.or_eq_true, beq_iff_eq] at h
  rcases h with rfl | rfl <;> rfl

/-- The faults a well-formed command's check can raise: ranges and sizes, the palette, and for COMPOSE the canvas. -/
def registerFaults (i : Instr) : List EngineFault :=
  [.access, .overlap, .sizeMismatch, .noPalette, .trnsCount] ++ if i.opcode = .compose then [.noCanvas, .badGeometry] else []

/-- R97: what the check of a well-formed command can raise. -/
theorem raises_of_wellFormed {i : Instr} (s : State) (hwf : i.wellFormed = true) : Raises (registerFaults i) (commandCheck i s) := by
  have haccess : .access ∈ registerFaults i := by simp [registerFaults]
  have hoverlap : .overlap ∈ registerFaults i := by simp [registerFaults]
  have hsize : .sizeMismatch ∈ registerFaults i := by simp [registerFaults]
  have hpalette : .noPalette ∈ registerFaults i := by simp [registerFaults]
  have hcount : .trnsCount ∈ registerFaults i := by simp [registerFaults]
  have hranges {rs qs : List MemRange} := Raises.ranges_overlap (s := s) (rs := rs) (qs := qs) haccess hoverlap
  cases i with
  | halt | nop | setcur => exact .pass
  | crc src len => exact .ranges haccess
  | crcchk crclen name =>
    refine .cons ?_ (.cons (.ranges haccess) .nil)
    unfold checkCoveredStart
    split
    · exact .require haccess
    · exact .pass
  | unpack | pack => exact .cons (.of_eq_none (checkSubByteDepth_of_legal hwf)) hranges
  | unfilt => exact .cons (.of_eq_none (require_of_true hwf _)) hranges
  | filt =>
    obtain ⟨hbpp, hkind⟩ := Bool.and_eq_true_iff.mp hwf
    exact .cons (.of_eq_none (require_of_true hbpp _)) (.cons (.of_eq_none (require_of_true hkind _)) hranges)
  | deint =>
    simp only [Instr.wellFormed, Bool.and_eq_true] at hwf
    obtain ⟨⟨⟨hd, hc⟩, hil⟩, hwh⟩ := hwf
    exact .cons (.of_eq_none (checkImageDepth_of_legal hd)) (.cons (.of_eq_none (require_of_true hc _))
      (.cons (.of_eq_none (require_of_true hil _)) (.cons (.of_eq_none (require_of_true hwh _)) hranges)))
  | intl =>
    simp only [Instr.wellFormed, Bool.and_eq_true] at hwf
    obtain ⟨⟨⟨hd, hc⟩, hil⟩, hwh⟩ := hwf
    exact .cons (.of_eq_none (checkImageDepth_of_legal hd)) (.cons (.of_eq_none (require_of_true hc _))
      (.cons (.of_eq_none (require_of_true hil _)) (.cons (.of_eq_none (require_of_true hwh _)) (.cons (.require hsize) hranges))))
  | swap16 => exact hranges
  | palld =>
    obtain ⟨htriples, hentries⟩ := of_decide_eq_true hwf
    exact .cons (.of_eq_none (require_of_true (decide_eq_true htriples) _))
      (.cons (.of_eq_none (require_of_true (decide_eq_true hentries) _)) (.cons (.ranges haccess) .nil))
  | paltr => exact .cons (.require hcount) (.cons (.ranges haccess) .nil)
  | palx =>
    obtain ⟨hd, hwh⟩ := Bool.and_eq_true_iff.mp hwf
    exact .cons (.of_eq_none (checkIndexDepth_of_legal hd)) (.cons (.of_eq_none (require_of_true hwh _))
      (.cons (.require hpalette) (.cons (.require hsize) hranges)))
  | acfg =>
    simp only [Instr.wellFormed, Bool.and_eq_true] at hwf
    obtain ⟨⟨hc, hss⟩, hwh⟩ := hwf
    exact .cons (.of_eq_none (require_of_true hc _)) (.cons (.of_eq_none (checkSampleBytes_of_legal hss))
      (.cons (.of_eq_none (require_of_true hwh _)) .nil))
  | compose =>
    obtain ⟨hd, hb⟩ := Bool.and_eq_true_iff.mp hwf
    exact .cons (.of_eq_none (require_of_true hd _)) (.cons (.of_eq_none (require_of_true hb _))
      (.cons (.require (List.mem_of_elem_eq_true rfl)) (.cons (.require (List.mem_of_elem_eq_true rfl))
        (.cons (.require (List.mem_of_elem_eq_true rfl)) hranges))))

/-- The fault of a well-formed command is one of its check, a checksum that does not match, or bad data. -/
theorem exec_error_of_wellFormed {i : Instr} {s t : State} (hwf : i.wellFormed = true) (hbusy : s.status = .busy)
    (hexec : exec i s = .next t) (herr : t.status = .err) :
    ∃ k : EngineFault, t.err.errcode = k.code ∧
      (k ∈ registerFaults i ∨ k = .crcMismatch ∨ dataDependent k.code i = true) := by
  obtain ⟨f, hf, rfl⟩ | ⟨-, heffect⟩ := exec_eq_next hexec
  · exact ⟨f.kind, rfl, .inl (raises_of_wellFormed s hwf f hf)⟩
  · cases heffect
    case mismatch => exact ⟨.crcMismatch, rfl, .inr (.inl rfl)⟩
    case badData hop hrange hdata => exact ⟨_, rfl, .inr (.inr hdata)⟩
    all_goals exact absurd herr (by simp [hbusy])

/-- R70: bad data raises BAD_FILTER, PAL_INDEX or SAMPLE_RANGE, and nothing in FILT. -/
theorem code_of_dataDependent {code : Word} {i : Instr} (h : dataDependent code i = true) :
    (code = 10 ∨ code = 14 ∨ code = 18) ∧ i.opcode ≠ .filt := by
  cases i <;> simp_all [dataDependent, Instr.opcode]

/-- Settles O48: none of the faults that are left has one of these codes. -/
theorem wellFormedCommandsPassTheirFieldChecks : Obligations.WellFormedCommandsPassTheirFieldChecks := by
  unfold Obligations.WellFormedCommandsPassTheirFieldChecks
  intro i s t hwf hbusy hexec herr
  obtain ⟨k, hk, hregister | rfl | hdata⟩ := exec_error_of_wellFormed hwf hbusy hexec herr
  · rw [hk]
    unfold registerFaults at hregister
    have hshared : ∀ k ∈ [EngineFault.access, .overlap, .sizeMismatch, .noPalette, .trnsCount, .noCanvas, .badGeometry],
        (∀ code ∈ [6, 7, 11, 12, 16, 17], k.code.toNat ≠ code) ∧ k.code.toNat ≠ 10 := by decide
    have hmost : ∀ k ∈ [EngineFault.access, .overlap, .sizeMismatch, .noPalette, .trnsCount], k.code.toNat ≠ 8 := by decide
    split at hregister
    · next hcompose =>
      obtain ⟨hcodes, hfilter⟩ := hshared k hregister
      exact ⟨hcodes, fun hno => absurd hcompose hno, fun _ _ _ _ _ _ _ => hfilter⟩
    · rw [List.append_nil] at hregister
      obtain ⟨hcodes, hfilter⟩ := hshared k (List.mem_append_left [EngineFault.noCanvas, .badGeometry] hregister)
      exact ⟨hcodes, fun _ => hmost k hregister, fun _ _ _ _ _ _ _ => hfilter⟩
  · rw [hk]
    exact ⟨by decide, fun _ => by decide, fun _ _ _ _ _ _ _ => by decide⟩
  · rw [hk]
    obtain ⟨hcode, hop⟩ := code_of_dataDependent hdata
    refine ⟨?_, fun _ => ?_, fun _ _ _ _ _ _ hi => absurd (by rw [hi]; rfl) hop⟩
    · rcases hcode with h | h | h <;> rw [h] <;> decide
    · rcases hcode with h | h | h <;> rw [h] <;> decide

end Sys2Proof.Machine
end

section
/-!
PROOFS about reset and the host (10_state.md rules R24 to R30, 70_reset_and_hazards.md rules R320 to R333).
-/

namespace Sys2Proof.Machine

open Sys2Proof.Claims

/-! ### The register map (R24) -/

/-- R50: after reset every register of the map reads 0. -/
theorem register_resetWith (config : Config.Params) (n : Nat) : (State.resetWith config).register n = 0 := by
  unfold State.register
  split <;> rfl

/-- R320: so it does after a reset during a run: only memory and the table differ, and neither is a register. -/
theorem register_resetRegs (s : State) (n : Nat) : s.resetRegs.register n = 0 :=
  register_resetWith s.config n

/-- R28: the reserved register numbers and CTRL read 0. -/
theorem register_of_reserved (s : State) {n : Nat}
    (h : n = 0 ∨ n = 0x0E ∨ n = 0x0F ∨ (0x1C ≤ n ∧ n ≤ 0x1F) ∨ 0x28 ≤ n) : s.register n = 0 := by
  unfold State.register
  split
  case h_34 => rfl
  all_goals omega

/-- R29: the word of CFG, as the claims compute it. -/
theorem cfg_word (c : CfgReg) : c.word = BitVec.ofNat 32 ((if c.crcen then 1 else 0) + (if c.hle then 2 else 0)) := by
  obtain ⟨crcen, hle⟩ := c
  cases crcen <;> cases hle <;> rfl

/-- R24: every number of the map reads as the register it names. -/
theorem register_of_mem_registerMap (s : State) : ∀ r ∈ registerMap s, s.register r.1 = r.2 := by
  simp only [registerMap, List.forall_mem_append, List.forall_mem_cons, List.not_mem_nil, false_imp_iff, implies_true, and_true,
    and_assoc]
  refine ⟨?status, cfg_word s.cfg, ?others⟩
  case status =>
    show s.status.word = _
    cases s.status <;> rfl
  case others => simp only [State.register, and_self]

/-- R29: bits 31 to 2 of a value written to CFG are ignored. -/
theorem toNat_word_ofWord (v : Word) : (CfgReg.ofWord v).word.toNat = v.toNat % 4 := by
  have hbits : v.toNat % 4 = (v.toNat.testBit 0).toNat + 2 * (v.toNat.testBit 1).toNat := by
    simp only [Nat.toNat_testBit]
    omega
  rw [hbits, cfg_word, CfgReg.ofWord, BitVec.getLsbD, BitVec.getLsbD]
  cases v.toNat.testBit 0 <;> cases v.toNat.testBit 1 <;> rfl

/-! ### Host accesses while stopped and while BUSY (R27, R333) -/

section
variable {s : State}

theorem isBusy_of_busy (h : s.status = .busy) : s.isBusy = true := by simp [State.isBusy, h]

theorem isBusy_of_not_busy (h : s.status ≠ .busy) : s.isBusy = false := by simpa [State.isBusy] using h

/-- R333: a stopped engine's registers can all be read. -/
theorem hostReadReg_of_not_busy (h : s.status ≠ .busy) (n : Nat) : hostReadReg s n = .ok (s.register n) := by
  simp [hostReadReg, isBusy_of_not_busy h]

/-- R24: a write to a register that takes none is ignored. -/
theorem hostWriteReg_of_not_writable (h : s.status ≠ .busy) {n : Nat} (hn : n ∉ [0, 2, 3, 4]) (v : Word) :
    hostWriteReg s n v = .next s := by
  simp only [List.mem_cons, List.not_mem_nil, or_false, not_or] at hn
  obtain ⟨h0, h2, h3, h4⟩ := hn
  simp only [hostWriteReg, h0, if_false, isBusy_of_not_busy h, Bool.false_eq_true]

/-- R27: a write to any register but CTRL while BUSY is refused. -/
theorem hostWriteReg_of_busy (h : s.status = .busy) {n : Nat} (hn : n ≠ 0) (v : Word) :
    hostWriteReg s n v = .refused .hostAccessWhileBusy := by
  simp [hostWriteReg, hn, isBusy_of_busy h]

end

/-! ### The obligations -/

/-- Settles O56: the two facts of the reset state. -/
theorem afterResetEveryRegisterReadsZero : Obligations.AfterResetEveryRegisterReadsZero := by
  unfold Obligations.AfterResetEveryRegisterReadsZero
  exact fun config n => ⟨register_resetWith config n, rfl⟩

/-- Settles O57: every way of reset ends in `resetRegs`, in the middle of a command after unspecified writes inside its ranges. -/
theorem resetFromEveryState : Obligations.ResetFromEveryState := by
  unfold Obligations.ResetFromEveryState
  refine ⟨fun s => ?_, fun s => ?_⟩
  · refine ⟨s.resetRegs, rfl, fun v hv => ?_, rfl, register_resetRegs s, rfl, fun _ => rfl⟩
    exact if_pos hv
  · obtain ⟨u, hu, hconfig, -⟩ := resetMidCommand_induction (s := s) (P := fun _ => True) trivial fun _ _ _ _ _ _ _ _ => trivial
    refine ⟨resetMidCommand s, rfl, by rw [hu]; rfl, fun n => by rw [hu]; exact register_resetRegs u n, by rw [hu]; exact hconfig,
      fun b hb => ?_⟩
    obtain ⟨w, hw, -, hbyte⟩ := resetMidCommand_induction (s := s) (P := fun m => m.byte b = s.mem.byte b) rfl
      fun i m a bs hdecode _ hm hin => (byte_write_of_outside (hb i hdecode) hin).trans hm
    rw [hw]
    exact hbyte

/-- Settles O58: by the two bits written and the run state. -/
theorem goStartsAStoppedEngine : Obligations.GoStartsAStoppedEngine := by
  unfold Obligations.GoStartsAStoppedEngine
  intro s v hrst
  have hctrl : hostStep (.writeReg 0 v) s =
      if v.getLsbD 0 then .next (hostGo s) else if s.isBusy then .refused .hostAccessWhileBusy else .next s := by
    simp only [hostStep, hostWriteReg, if_true, hostWriteCtrl, ctrlRst, hrst, Bool.false_eq_true, if_false, ctrlGo]
    rfl
  rw [hctrl]
  refine ⟨fun hgo hs => ?_, fun hgo hs => ?_, fun hgo hs => ?_, fun hgo hs => ?_⟩
  · rcases hs with hs | hs <;> simp [hgo, hostGo, hs] <;> rfl
  · rcases hs with hs | hs <;> simp [hgo, hostGo, hs]
  · rw [hgo, isBusy_of_not_busy hs]; rfl
  · rw [hgo, isBusy_of_busy hs]; rfl

/-- Settles O59: the accesses of a stopped engine, the reserved numbers, and those of a BUSY one. -/
theorem hostRegisterAccess : Obligations.HostRegisterAccess := by
  unfold Obligations.HostRegisterAccess
  refine ⟨fun s v hs => ?stopped, fun s n hn => register_of_reserved s hn, fun s hs => ?busy⟩
  case stopped =>
    have hread := hostReadReg_of_not_busy hs
    refine ⟨⟨{ s with cfg := CfgReg.ofWord v }, ?_, rfl, toNat_word_ofWord v⟩, ?_, ?_,
      fun n hn => hostWriteReg_of_not_writable hs hn v, fun r hr => ?_, hread⟩
    · simp [hostStep, hostWriteReg, isBusy_of_not_busy hs]
    · simp [hostStep, hostWriteReg, isBusy_of_not_busy hs]
    · simp [hostStep, hostWriteReg, isBusy_of_not_busy hs, State.withCur]
    · rw [hread, register_of_mem_registerMap s r hr]
  case busy =>
    refine ⟨?_, fun n hn => ?_, fun n v hn => hostWriteReg_of_busy hs hn v⟩
    · simp [hostReadReg, State.register, hs, RunState.word]
    · simp [hostReadReg, isBusy_of_busy hs, hn]

/-- Settles O60: by the run state and the bound of MEMSIZE. -/
theorem hostMemoryAccess : Obligations.HostMemoryAccess := by
  unfold Obligations.HostMemoryAccess
  intro s a b
  refine ⟨fun hs ha => ?inside, fun hs ha => ?outside, fun hs => ?busy⟩
  case inside =>
    refine ⟨s.mem.write a [b], by simp [hostStep, hostWriteMem, isBusy_of_not_busy hs, ha, State.withMem], fun a' => ?_,
      by simp [hostReadMem, isBusy_of_not_busy hs, ha]⟩
    rw [Memory.byte_write]
    by_cases h : a' = a
    · simp [h]
    · rw [if_neg h, if_neg (by simp; omega)]
  case outside =>
    have ha' : ¬a < s.config.memSize := by omega
    simp [hostStep, hostWriteMem, hostReadMem, isBusy_of_not_busy hs, ha']
  case busy => simp [hostStep, hostWriteMem, hostReadMem, isBusy_of_busy hs]

end Sys2Proof.Machine
end

section
/-!
PROOFS about the checksum unit (40_crc.md rules R120 to R125). The shift step is linear over XOR and injective; the table form is the
first fact, the detection of a changed byte the second.
-/

namespace Sys2Proof.Machine

open Sys2Proof.Claims

/-! ### The shift step is linear and injective (R120) -/

/-- R120: the feedback of a shift step: the polynomial, or nothing. -/
def crcFeedback (c : Word) : Word := if c.getLsbD 0 then crcPoly else 0

theorem crcShift_eq (c : Word) : crcShift c = (c >>> 1) ^^^ crcFeedback c := by
  unfold crcShift crcFeedback
  split <;> simp

theorem crcFeedback_xor (x y : Word) : crcFeedback (x ^^^ y) = crcFeedback x ^^^ crcFeedback y := by
  simp only [crcFeedback, BitVec.getLsbD_xor]
  cases x.getLsbD 0 <;> cases y.getLsbD 0 <;> decide

theorem crcShift_xor (x y : Word) : crcShift (x ^^^ y) = crcShift x ^^^ crcShift y := by
  simp only [crcShift_eq, crcFeedback_xor, BitVec.ushiftRight_xor_distrib]
  ac_rfl

theorem crcShifts_xor (n : Nat) (x y : Word) : crcShifts n (x ^^^ y) = crcShifts n x ^^^ crcShifts n y := by
  induction n generalizing x y with
  | zero => rfl
  | succ n ih => rw [crcShifts, crcShift_xor, ih]; rfl

/-- R120: the top bit of a shifted value is the bit that was shifted out, since the polynomial has its top bit set. -/
theorem getLsbD_crcShift_top (c : Word) : (crcShift c).getLsbD 31 = c.getLsbD 0 := by
  rw [crcShift_eq, BitVec.getLsbD_xor, BitVec.getLsbD_ushiftRight, crcFeedback, BitVec.getLsbD_of_ge c (1 + 31) (by decide)]
  cases c.getLsbD 0 <;> decide

theorem crcShift_injective : Function.Injective crcShift := by
  intro c d h
  have hlow : c.getLsbD 0 = d.getLsbD 0 := by rw [← getLsbD_crcShift_top, ← getLsbD_crcShift_top, h]
  have hhigh : c >>> 1 = d >>> 1 := by
    have hfeedback : crcFeedback c = crcFeedback d := by simp only [crcFeedback, hlow]
    rw [crcShift_eq, crcShift_eq, hfeedback] at h
    exact (BitVec.xor_left_inj _).mp h
  refine BitVec.eq_of_getLsbD_eq fun i _ => ?_
  cases i with
  | zero => exact hlow
  | succ i =>
    have hbit := congrArg (fun w : Word => w.getLsbD i) hhigh
    simpa [BitVec.getLsbD_ushiftRight, Nat.add_comm 1] using hbit

theorem crcShifts_injective (n : Nat) : Function.Injective (crcShifts n) := by
  induction n with
  | zero => exact fun _ _ h => h
  | succ n ih => exact fun _ _ h => crcShift_injective (ih h)

/-! ### The table (R122) -/

/-- R122: while only zeros are shifted out, a shift step is a shift. -/
theorem crcShifts_of_low_zero {n : Nat} {c : Word} (h : ∀ i < n, c.getLsbD i = false) : crcShifts n c = c >>> n := by
  induction n generalizing c with
  | zero => simp [crcShifts]
  | succ n ih =>
    have hshift : crcShift c = c >>> 1 := by rw [crcShift, h 0 (by omega)]; rfl
    rw [crcShifts, hshift, ih fun i hi => ?_, ← BitVec.shiftRight_add, Nat.add_comm]
    rw [BitVec.getLsbD_ushiftRight]
    exact h _ (by omega)

/-- A word is its low byte and the rest. -/
theorem low_xor_high (x : Word) : (x.setWidth 8).setWidth 32 ^^^ (x >>> 8) <<< 8 = x := by
  refine BitVec.eq_of_getLsbD_eq fun i hi => ?_
  simp only [BitVec.getLsbD_xor, BitVec.getLsbD_setWidth, BitVec.getLsbD_shiftLeft, BitVec.getLsbD_ushiftRight]
  by_cases h : i < 8
  · simp [h, hi]
  · simp [h, hi, Nat.add_sub_cancel' (show 8 ≤ i by omega)]

/-- Settles O12: the shift steps of a word are those of its low byte, from the table, and those of the rest, a plain shift. -/
theorem tableDrivenCrcStepAgrees : Obligations.TableDrivenCrcStepAgrees := by
  unfold Obligations.TableDrivenCrcStepAgrees
  intro c b
  have hhigh : ((c ^^^ b.setWidth 32) >>> 8) = c >>> 8 := by
    refine BitVec.eq_of_getLsbD_eq fun i _ => ?_
    simp [BitVec.getLsbD_ushiftRight, BitVec.getLsbD_setWidth]
  have hzeros : ∀ i < 8, ((c >>> 8) <<< 8 : Word).getLsbD i = false := fun i hi => by
    simp [BitVec.getLsbD_shiftLeft, hi]
  have hback : ((c >>> 8) <<< 8 : Word) >>> 8 = c >>> 8 := by
    refine BitVec.eq_of_getLsbD_eq fun i hi => ?_
    simp only [BitVec.getLsbD_ushiftRight, BitVec.getLsbD_shiftLeft]
    by_cases h : 8 + i < 32
    · simp [h]
    · simp [h, BitVec.getLsbD_of_ge c (8 + i) (by omega)]
  calc crcStepTable c b
      = crcShifts 8 (((c ^^^ b.setWidth 32).setWidth 8).setWidth 32) ^^^ c >>> 8 := rfl
    _ = crcShifts 8 (((c ^^^ b.setWidth 32).setWidth 8).setWidth 32) ^^^ crcShifts 8 ((c >>> 8) <<< 8) := by
        rw [crcShifts_of_low_zero hzeros, hback]
    _ = crcShifts 8 (c ^^^ b.setWidth 32) := by
        rw [← crcShifts_xor, ← hhigh, low_xor_high]

/-! ### A changed byte is detected (R125) -/

theorem crcStep_left_injective (b : Byte) : Function.Injective fun c => crcStep c b :=
  fun _ _ h => (BitVec.xor_left_inj _).mp (crcShifts_injective 8 h)

theorem crcStep_right_injective (c : Word) : Function.Injective (crcStep c) := by
  intro b b' h
  have hwide : b.setWidth 32 = b'.setWidth 32 := (BitVec.xor_right_inj _).mp (crcShifts_injective 8 h)
  have hnum := congrArg BitVec.toNat hwide
  rw [BitVec.toNat_setWidth_of_le (by decide), BitVec.toNat_setWidth_of_le (by decide)] at hnum
  exact BitVec.eq_of_toNat_eq hnum

theorem foldl_crcStep_injective (s : List Byte) : Function.Injective fun c => s.foldl crcStep c := by
  induction s with
  | nil => exact fun _ _ h => h
  | cons b s ih => exact fun _ _ h => crcStep_left_injective b (ih h)

/-- R125 (b), on checksums. -/
theorem crc32_ne_of_byte_ne (before after : List Byte) {b b' : Byte} (h : b ≠ b') :
    crc32 (before ++ b :: after) ≠ crc32 (before ++ b' :: after) := by
  intro heq
  have hfold := (BitVec.xor_left_inj _).mp heq
  rw [List.foldl_append, List.foldl_append, List.foldl_cons, List.foldl_cons] at hfold
  exact h (crcStep_right_injective _ (foldl_crcStep_injective after hfold))

/-- Reading a range of which one byte was written: that byte is replaced. -/
theorem read_write_one (m : Memory) (a : Nat) {n i : Nat} (hi : i < n) (b : Byte) :
    (m.write (a + i) [b]).read a n = (m.read a n).set i b := by
  refine eq_of_getD (by simp) fun j hj => ?_
  rw [length_read] at hj
  rw [getD_read _ _ hj, Memory.byte_write]
  by_cases h : j = i
  · simp [h, hi, List.getD_eq_getElem?_getD]
  · rw [if_neg (by simp; omega), List.getD_eq_getElem?_getD, List.getElem?_set_ne (Ne.symm h), ← List.getD_eq_getElem?_getD,
      getD_read m a hj]

/-- R125 (b), on memory: changing a covered byte changes the checksum. -/
theorem crc32_read_write_ne {m : Memory} {a n i : Nat} (hi : i < n) {b : Byte} (hb : b ≠ m.byte (a + i)) :
    crc32 ((m.write (a + i) [b]).read a n) ≠ crc32 (m.read a n) := by
  have hlen : i < (m.read a n).length := by simpa using hi
  have horig : m.read a n = (m.read a n).take i ++ m.byte (a + i) :: (m.read a n).drop (i + 1) := by
    have hbyte : (m.read a n)[i] = m.byte (a + i) := by simp [Memory.read]
    rw [← hbyte, List.getElem_cons_drop, List.take_append_drop]
  rw [read_write_one m a hi, List.set_eq_take_append_cons_drop, if_pos hlen]
  conv_rhs => rw [horig]
  exact crc32_ne_of_byte_ne _ _ hb

/-! ### CRCCHK (R124) -/

section
variable {s : State} {crclen : Word}

/-- R124: with CFG.CRCEN = 0 only the four bytes at CUR are checked. -/
theorem crcchkCheck_of_disabled (hcrcen : s.cfg.crcen = false) (h : s.config.memSize < s.cur.toNat + 4) :
    crcchkCheck crclen s = some (raiseAccess s.cur.toNat (4 : Word).toNat 1) := by
  have hno : MemRange.admitted (readRange s.cur 4) s.config.memSize = false := by simpa [MemRange.admitted, readRange] using h
  simp [crcchkCheck, checkCoveredStart, crcchkRanges, hcrcen, firstRaise, checkRanges, accessFrom, hno]
  rfl

/-- R124: a covered range that starts below address 0. -/
theorem crcchkCheck_of_cur_lt (hcrcen : s.cfg.crcen = true) (h : s.cur.toNat < crclen.toNat) :
    crcchkCheck crclen s = some (raiseAccess s.cur.toNat crclen.toNat 1) := by
  simp [crcchkCheck, checkCoveredStart, hcrcen, require, firstRaise, Nat.not_le.mpr h]

/-- R124, log entry 18: a covered range that ends above MEMSIZE. -/
theorem crcchkCheck_of_covered_outside (hcrcen : s.cfg.crcen = true) (hpos : 0 < crclen.toNat) (h : crclen.toNat ≤ s.cur.toNat)
    (hcur : s.config.memSize < s.cur.toNat) :
    crcchkCheck crclen s = some (raiseAccess (s.cur.toNat - crclen.toNat) crclen.toNat 1) := by
  have hno : MemRange.admitted ⟨s.cur.toNat - crclen.toNat, crclen.toNat, false⟩ s.config.memSize = false := by
    simp only [MemRange.admitted, decide_eq_false_iff_not]
    omega
  simp [crcchkCheck, checkCoveredStart, crcchkRanges, hcrcen, require, h, firstRaise, checkRanges, accessFrom, hno]

/-- R124: a stored checksum outside MEM. -/
theorem crcchkCheck_of_stored_outside (hcrcen : s.cfg.crcen = true) (h : crclen.toNat ≤ s.cur.toNat)
    (hcovered : crclen.toNat = 0 ∨ s.cur.toNat ≤ s.config.memSize) (hcur : s.config.memSize < s.cur.toNat + 4) :
    crcchkCheck crclen s = some (raiseAccess s.cur.toNat (4 : Word).toNat 2) := by
  have hyes : MemRange.admitted ⟨s.cur.toNat - crclen.toNat, crclen.toNat, false⟩ s.config.memSize = true := by
    simp only [MemRange.admitted, decide_eq_true_eq]
    omega
  have hno : MemRange.admitted (readRange s.cur 4) s.config.memSize = false := by simpa [MemRange.admitted, readRange] using hcur
  simp [crcchkCheck, checkCoveredStart, crcchkRanges, hcrcen, require, h, firstRaise, checkRanges, accessFrom, hyes, hno]
  rfl

/-- R124: what CRCCHK does once its ranges are admitted. -/
theorem exec_crcchk_of_disabled (name : Word) (hcrcen : s.cfg.crcen = false) (h : s.cur.toNat + 4 ≤ s.config.memSize) :
    exec (.crcchk crclen name) s = .next (s.withCur (s.cur + 4)).advance := by
  have hcheck : crcchkCheck crclen s = none := crcchkCheck_eq_none.mpr ⟨fun hno => by simp [hcrcen] at hno, h⟩
  obtain ⟨t, ht, ⟨-, rfl⟩ | ⟨hno, -⟩ | ⟨hno, -⟩⟩ := (execCrcchk_answers crclen name s).exists_effect hcheck
  · exact ht
  all_goals simp [hcrcen] at hno

theorem exec_crcchk_of_match (name : Word) (hcrcen : s.cfg.crcen = true) (hcheck : crcchkCheck crclen s = none)
    (heq : storedChecksum s = computedChecksum crclen s) :
    exec (.crcchk crclen name) s = .next ((s.withCrcr (computedChecksum crclen s)).withCur (s.cur + 4)).advance := by
  obtain ⟨t, ht, ⟨hno, -⟩ | ⟨-, -, rfl⟩ | ⟨-, hno, -⟩⟩ := (execCrcchk_answers crclen name s).exists_effect hcheck
  · simp [hcrcen] at hno
  · exact ht
  · exact absurd heq hno

theorem exec_crcchk_of_mismatch (name : Word) (hcrcen : s.cfg.crcen = true) (hcheck : crcchkCheck crclen s = none)
    (hne : storedChecksum s ≠ computedChecksum crclen s) :
    exec (.crcchk crclen name) s = .next ((s.withCrcr (computedChecksum crclen s)).raise
      (raiseCrcMismatch (storedChecksum s) (computedChecksum crclen s) name)) := by
  obtain ⟨t, ht, ⟨hno, -⟩ | ⟨-, hno, -⟩ | ⟨-, -, rfl⟩⟩ := (execCrcchk_answers crclen name s).exists_effect hcheck
  · simp [hcrcen] at hno
  · exact absurd hno hne
  · exact ht

/-- R124: with CFG.CRCEN = 1 a CRCCHK that raises nothing found the stored checksum and the computed one equal. -/
theorem checksum_of_exec_crcchk {name : Word} {t : State} (hcrcen : s.cfg.crcen = true)
    (hexec : exec (.crcchk crclen name) s = .next t) (hok : t.status ≠ .err) :
    crcchkCheck crclen s = none ∧ storedChecksum s = computedChecksum crclen s := by
  cases hcheck : crcchkCheck crclen s with
  | some f =>
    have h := (execCrcchk_answers crclen name s).eq_raise hcheck
    obtain rfl := Host.Outcome.next.inj (h.symm.trans hexec)
    exact absurd rfl hok
  | none =>
    refine ⟨rfl, Decidable.not_not.mp fun hne => hok ?_⟩
    obtain rfl := Host.Outcome.next.inj ((exec_crcchk_of_mismatch name hcrcen hcheck hne).symm.trans hexec)
    rfl

end

/-- Settles O14: the check case by case, then the comparison. -/
theorem crcchkFollowsItsRule : Obligations.CrcchkFollowsItsRule := by
  unfold Obligations.CrcchkFollowsItsRule
  intro s crclen name stored computed
  have hfault {a k : Nat} {n : Word} (h : crcchkCheck crclen s = some (raiseAccess a n.toNat k)) :
      exec (.crcchk crclen name) s = .next (faulted s ⟨3, a, n.toNat, k⟩) :=
    ((execCrcchk_answers crclen name s).eq_raise h).trans (congrArg _ (raise_access_eq_faulted s a k n))
  refine ⟨rfl, fun hcrcen => ⟨?_, ?_⟩, fun hcrcen => ⟨?_, ?_, ?_, ?_, ?_⟩⟩
  · exact exec_crcchk_of_disabled name hcrcen
  · exact fun h => hfault (crcchkCheck_of_disabled hcrcen h)
  · exact fun h => hfault (crcchkCheck_of_cur_lt hcrcen h)
  · exact fun h hcovered hcur => hfault (crcchkCheck_of_stored_outside hcrcen h hcovered hcur)
  · exact fun hpos h hcur => hfault (crcchkCheck_of_covered_outside hcrcen hpos h hcur)
  · intro h hcur heq
    exact exec_crcchk_of_match name hcrcen (crcchkCheck_eq_none.mpr ⟨fun _ => h, hcur⟩) heq
  · intro h hcur hne
    rw [exec_crcchk_of_mismatch name hcrcen (crcchkCheck_eq_none.mpr ⟨fun _ => h, hcur⟩) hne, raise_eq_faulted]
    rfl

/-- Settles O15: a changed byte changes the computed checksum and, being below CUR, not the stored one. -/
theorem changingOneByteIsDetected : Obligations.ChangingOneByteIsDetected := by
  unfold Obligations.ChangingOneByteIsDetected
  refine ⟨fun before after b b' => crc32_ne_of_byte_ne before after, ?detected, ?disabled⟩
  case detected =>
    intro s t u crclen name i b hcrcen _ hexec hok hi hb hexec'
    obtain ⟨hcheck, hsum⟩ := checksum_of_exec_crcchk hcrcen hexec hok
    obtain ⟨hcover, -⟩ := crcchkCheck_eq_none.mp hcheck
    have hle := hcover hcrcen
    let s' := s.withMem (s.mem.write (s.cur.toNat - crclen.toNat + i) [b])
    have hstored : storedChecksum s' = storedChecksum s := by
      simp only [storedChecksum, Memory.word, s', State.withMem_mem, State.withMem_cur]
      congr 1 <;> exact Memory.byte_write_outside _ _ _ _ (.inr (by simp; omega))
    have hne : storedChecksum s' ≠ computedChecksum crclen s' := fun heq =>
      crc32_read_write_ne hi hb (heq.symm.trans (hstored.trans hsum))
    have hcheck' : crcchkCheck crclen s' = none := crcchkCheck_eq_none.mpr (crcchkCheck_eq_none.mp hcheck)
    obtain rfl := Host.Outcome.next.inj ((exec_crcchk_of_mismatch (s := s') name hcrcen hcheck' hne).symm.trans hexec')
    exact ⟨rfl, rfl⟩
  case disabled => exact fun s m crclen name hcrcen h => exec_crcchk_of_disabled name hcrcen h

end Sys2Proof.Machine
end

section
/-!
PROOFS about how a data command ends (R32, R70, R102 step 7), in the claims' words, once for all of them.
-/

namespace Sys2Proof.Machine

open Sys2Proof.Claims

/-- A write leaves every byte outside its range alone. -/
theorem sameOutside_write (s : State) (a : Nat) {bs : List Byte} {n : Nat} (hlen : bs.length = n) :
    SameOutside s (s.mem.write a bs) a n := fun _ hb => Memory.byte_write_outside _ _ _ _ (hlen.symm ▸ hb)

/-- Unspecified bytes stand in their range only. -/
theorem sameOutside_scribble (s : State) (a n : Nat) : SameOutside s (s.scribble a n).mem a n :=
  sameOutside_write s a (by simp)

/-- R32, R102 step 7: a completed data command, byte by byte. -/
theorem exists_finish {s : State} {dst : Word} {bs : List Byte} {n : Nat} {o : Host.Outcome State Fault Refusal}
    (h : o = .next (s.finish dst bs n)) (hlen : bs.length = n) :
    ∃ m : Memory, o = .next { s with mem := m, olen := BitVec.ofNat 32 n, cp := s.cp + 32 } ∧
      (∀ k < n, m.byte (dst.toNat + k) = bs.getD k 0) ∧ SameOutside s m dst.toNat n :=
  ⟨s.mem.write dst.toNat bs, h, fun k hk => Memory.byte_write_inside _ _ _ k (hlen.symm ▸ hk), sameOutside_write s _ hlen⟩

section
variable {s : State} {o : Host.Outcome State Fault Refusal} {check : Option Raise} {dst : Word} {n : Nat}

/-- A data command without data-dependent faults completes. -/
theorem Answers.completes {bs : List Byte} (h : Answers o s check fun t => t = s.finish dst bs n) (hcheck : check = none)
    (hlen : bs.length = n) :
    ∃ m : Memory, o = .next { s with mem := m, olen := BitVec.ofNat 32 n, cp := s.cp + 32 } ∧
      (∀ k < n, m.byte (dst.toNat + k) = bs.getD k 0) ∧ SameOutside s m dst.toNat n := by
  obtain ⟨t, ht, rfl⟩ := h.exists_effect hcheck
  exact exists_finish ht hlen

/-- A data command completes on good data. -/
theorem Answers.completes_of_ok {r : Except Raise (List Byte)} {bs : List Byte} (h : Answers o s check (DataAnswer s dst n r))
    (hcheck : check = none) (hr : r = .ok bs) (hlen : bs.length = n) :
    ∃ m : Memory, o = .next { s with mem := m, olen := BitVec.ofNat 32 n, cp := s.cp + 32 } ∧
      (∀ k < n, m.byte (dst.toNat + k) = bs.getD k 0) ∧ SameOutside s m dst.toNat n := by
  obtain ⟨t, ht, ⟨f, hf, -⟩ | ⟨cs, hcs, rfl⟩⟩ := h.exists_effect hcheck
  · cases hr.symm.trans hf
  · cases hr.symm.trans hcs
    exact exists_finish ht hlen

/-- R70: a data command raises the fault of bad data and leaves its destination unspecified. -/
theorem Answers.fault_of_error {r : Except Raise (List Byte)} {f : Raise} (h : Answers o s check (DataAnswer s dst n r))
    (hcheck : check = none) (hr : r = .error f) :
    ∃ (m : Memory) (k : Nat), o = .next { faulted s f.report with mem := m, freeDraws := k } ∧ SameOutside s m dst.toNat n := by
  obtain ⟨t, ht, ⟨g, hg, rfl⟩ | ⟨cs, hcs, -⟩⟩ := h.exists_effect hcheck
  · cases hr.symm.trans hg
    refine ⟨(s.scribble dst.toNat n).mem, s.freeDraws + 1, ?_, sameOutside_scribble s _ n⟩
    rw [ht, raise_eq_faulted]
    rfl
  · cases hr.symm.trans hcs

end

end Sys2Proof.Machine
end

section
/-!
PROOFS about the bit-depth unit (41_bitdepth.md rules R140 to R144). A packed row is known by its lanes: what one step of packing does
to every lane (`lane_or_shift`), and that a byte is its lanes (`byte_ext_of_lanes`), are the two facts about bits.
-/

namespace Sys2Proof.Machine

open Sys2Proof.Claims

/-! ### Lanes (R140) -/

/-- R140: a bit of a lane is the bit of its byte, counted from the lane's shift. -/
theorem testBit_lane (b : Byte) (d i j : Nat) :
    (lane b d i).testBit j = (decide (j < d) && b.getLsbD (laneShift d i + j)) := by
  rw [lane, Nat.testBit_mod_two_pow, Nat.testBit_div_two_pow, Nat.add_comm j, BitVec.testBit_toNat]
  rfl

theorem lane_lt (b : Byte) (d i : Nat) : lane b d i < 2 ^ d := Nat.mod_lt _ (Nat.two_pow_pos d)

/-- R140: the model's lane is the claims'. -/
theorem toNat_laneOf {d : Nat} (hd : d ≤ 8) (p : List Byte) (i : Nat) :
    (laneOf p d i).toNat = lane (p.getD (i * d / 8) 0) d i := by
  refine Nat.eq_of_testBit_eq fun j => ?_
  have hmask : (BitVec.ofNat 8 (2 ^ d - 1)).getLsbD j = decide (j < d) := by
    rw [BitVec.getLsbD_ofNat, Nat.testBit_two_pow_sub_one]
    by_cases h : j < d
    · simp [h, show j < 8 by omega]
    · simp [h]
  rw [testBit_lane, laneOf, BitVec.testBit_toNat, BitVec.getLsbD_and, BitVec.getLsbD_ushiftRight, hmask, Bool.and_comm]

section
variable {d : Nat} (hd : d ∈ [1, 2, 4])
include hd

/-- R141: one step of packing puts its sample in its own lane and leaves the other lanes of the byte alone. -/
theorem lane_or_shift (b : Byte) {v : Byte} (hv : v.toNat < 2 ^ d) (i n : Nat) :
    lane (b ||| (v <<< laneShift d n)) d i = lane b d i ||| (if i * d % 8 = n * d % 8 then v.toNat else 0) := by
  refine Nat.eq_of_testBit_eq fun j => ?_
  rw [Nat.testBit_or, testBit_lane, testBit_lane, BitVec.getLsbD_or, BitVec.getLsbD_shiftLeft, Bool.and_or_distrib_left]
  congr 1
  by_cases hj : j < d
  case neg =>
    have hout : v.toNat.testBit j = false :=
      Nat.testBit_lt_two_pow (hv.trans_le (Nat.pow_le_pow_right two_pos (by omega)))
    split <;> simp [hj, hout]
  -- The shifts of two lanes of a byte are equal or at least `d` apart.
  have happart : laneShift d i + j < 8 ∧ (i * d % 8 = n * d % 8 → laneShift d i = laneShift d n) ∧
      (i * d % 8 ≠ n * d % 8 → laneShift d i + j < laneShift d n ∨ laneShift d n + d ≤ laneShift d i + j) := by
    simp only [List.mem_cons, List.not_mem_nil, or_false] at hd
    unfold laneShift
    rcases hd with rfl | rfl | rfl <;> omega
  obtain ⟨hlt, hsame, hother⟩ := happart
  by_cases h : i * d % 8 = n * d % 8
  · simp [h, hsame h, hj, hsame h ▸ hlt, BitVec.testBit_toNat]
  · rcases hother h with hbelow | habove
    · simp [h, hbelow]
    · have hout : v.getLsbD (laneShift d i + j - laneShift d n) = false := by
        rw [← BitVec.testBit_toNat]
        exact Nat.testBit_lt_two_pow (hv.trans_le (Nat.pow_le_pow_right two_pos (by omega)))
      simp [h, hout]

/-- R140: byte `k` of a packed row is what the lanes in it hold. -/
theorem byte_ext_of_lanes {b b' : Byte} (k : Nat) (h : ∀ i, i * d / 8 = k → lane b d i = lane b' d i) : b = b' := by
  refine BitVec.eq_of_getLsbD_eq fun p hp => ?_
  -- Bit `p` is bit `(p mod d)` of lane `8 / d · k + (7 − p) / d`.
  have hplace : ∃ i j, i * d / 8 = k ∧ j < d ∧ laneShift d i + j = p := by
    refine ⟨8 / d * k + (7 - p) / d, p % d, ?_⟩
    simp only [List.mem_cons, List.not_mem_nil, or_false] at hd
    unfold laneShift
    rcases hd with rfl | rfl | rfl <;> omega
  obtain ⟨i, j, hi, hj, rfl⟩ := hplace
  have hbit := congrArg (·.testBit j) (h i hi)
  simpa [testBit_lane, hj] using hbit

/-- R140: a used lane stands in the row. -/
theorem lane_index_lt {i n : Nat} (hi : i < n) : i * d / 8 < divCeil (n * d) 8 := by
  have hpos : 0 < d := Nat.pos_of_ne_zero (by rintro rfl; simp at hd)
  have hmul : i * d < n * d := Nat.mul_lt_mul_of_pos_right hi hpos
  rw [lt_divCeil (by decide)]
  omega

/-! ### Packing a row (R141) -/

/-- R141: after `n` steps the first `n` lanes hold their samples and the others are clear. -/
theorem lane_foldl_packLane {s : List Byte} (hs : ∀ v ∈ s, v.toNat < 2 ^ d) {n spr : Nat} (hn : n ≤ spr) {i : Nat}
    (hi : i * d / 8 < packedBytes spr d) :
    lane (((List.range n).foldl (packLane s d) (zeros (packedBytes spr d))).getD (i * d / 8) 0) d i =
      if i < n then (s.getD i 0).toNat else 0 := by
  induction n with
  | zero =>
    rw [List.range_zero, List.foldl_nil, getD_zeros]
    simp [lane]
  | succ n ih =>
    have ih := ih (by omega)
    have hsample : (s.getD n 0).toNat < 2 ^ d := by
      by_cases h : n < s.length
      · rw [List.getD_eq_getElem?_getD, List.getElem?_eq_getElem h]
        exact hs _ (List.getElem_mem h)
      · rw [getD_of_length_le (show s.length ≤ n by omega)]
        exact Nat.two_pow_pos d
    rw [List.range_succ, List.foldl_append, List.foldl_cons, List.foldl_nil]
    generalize hout : (List.range n).foldl (packLane s d) (zeros (packedBytes spr d)) = out at ih
    have hlen : out.length = packedBytes spr d := by rw [← hout, length_foldl_packLane, length_zeros]
    by_cases hbyte : i * d / 8 = n * d / 8
    · have hstep : (packLane s d out n).getD (i * d / 8) 0 = out.getD (i * d / 8) 0 ||| (s.getD n 0 <<< laneShift d n) := by
        rw [packLane, ← hbyte]
        simp [List.getD_eq_getElem?_getD, hlen, hi]
      rw [hstep, lane_or_shift hd _ hsample, ih]
      by_cases hin : i = n
      · subst hin; simp
      · have hother : i * d % 8 ≠ n * d % 8 := by
          simp only [List.mem_cons, List.not_mem_nil, or_false] at hd
          rcases hd with rfl | rfl | rfl <;> omega
        rw [if_neg hother, Nat.or_zero]
        split_ifs <;> omega
    · have hstep : (packLane s d out n).getD (i * d / 8) 0 = out.getD (i * d / 8) 0 := by
        rw [packLane, List.getD_eq_getElem?_getD, List.getElem?_modify_ne _ _ (Ne.symm hbyte), ← List.getD_eq_getElem?_getD]
      rw [hstep, ih]
      have hin : i ≠ n := by rintro rfl; exact hbyte rfl
      split_ifs <;> omega

/-- R141: a packed row holds its samples in its lanes, and its unused lanes are clear. -/
theorem lane_packRow {s : List Byte} (hs : ∀ v ∈ s, v.toNat < 2 ^ d) {spr i : Nat} (hi : i * d / 8 < packedBytes spr d) :
    lane ((packRow s d spr).getD (i * d / 8) 0) d i = if i < spr then (s.getD i 0).toNat else 0 :=
  lane_foldl_packLane hd hs le_rfl hi

theorem le_eight : d ≤ 8 := by
  simp only [List.mem_cons, List.not_mem_nil, or_false] at hd
  omega

theorem toNat_getD_unpackRow (p : List Byte) {n i : Nat} (hi : i < n) :
    ((unpackRow p d n).getD i 0).toNat = lane (p.getD (i * d / 8) 0) d i := by
  rw [unpackRow, getD_range_map _ hi, toNat_laneOf (le_eight hd)]

theorem unpackRow_fits (p : List Byte) (n : Nat) : ∀ v ∈ unpackRow p d n, v.toNat < 2 ^ d := by
  intro v hv
  obtain ⟨i, -, rfl⟩ := List.mem_map.mp hv
  rw [toNat_laneOf (le_eight hd)]
  exact lane_lt _ _ _

/-- R144 (a): unpacking what was packed gives the samples back. -/
theorem unpackRow_packRow {s : List Byte} (hs : ∀ v ∈ s, v.toNat < 2 ^ d) {n : Nat} (hn : s.length = n) :
    unpackRow (packRow s d n) d n = s := by
  refine eq_of_getD (by simp [hn]) fun i hi => BitVec.eq_of_toNat_eq ?_
  rw [length_unpackRow] at hi
  rw [toNat_getD_unpackRow hd _ hi, lane_packRow hd hs (lane_index_lt hd hi), if_pos hi]

/-- R144 (b): packing what was unpacked keeps the used lanes and clears the others. -/
theorem lane_packRow_unpackRow (p : List Byte) {n i : Nat} (hi : i * d / 8 < packedBytes n d) :
    lane ((packRow (unpackRow p d n) d n).getD (i * d / 8) 0) d i = if i < n then lane (p.getD (i * d / 8) 0) d i else 0 := by
  rw [lane_packRow hd (unpackRow_fits hd p n) hi]
  split
  · next h => exact toNat_getD_unpackRow hd p h
  · rfl

end

/-- Settles O19: lane by lane, and a byte is its lanes. -/
theorem packAndUnpackAreInverse : Obligations.PackAndUnpackAreInverse := by
  unfold Obligations.PackAndUnpackAreInverse
  intro d hd
  refine ⟨fun s hs => unpackRow_packRow hd hs rfl, fun p n hp => ⟨(length_packRow _ _ _).trans hp.symm, fun i hi => ?_,
    fun i hi hin => ?_, fun hunused => ?_⟩⟩
  · rw [lane_packRow_unpackRow hd p (lane_index_lt hd hi), if_pos hi]
  · rw [lane_packRow_unpackRow hd p (hin.trans_eq hp), if_neg (by omega)]
  · refine eq_of_getD ((length_packRow _ _ _).trans hp.symm) fun k hk => byte_ext_of_lanes hd k fun i hi => ?_
    rw [length_packRow] at hk
    subst hi
    rw [lane_packRow_unpackRow hd p hk]
    split
    · rfl
    · next h => exact (hunused i (by omega) (hk.trans_eq hp.symm)).symm

/-! ### UNPACK (R142) -/

/-- Settles O16: lane `i` of row `r` is at its place in the rows laid end to end. -/
theorem unpackWritesEveryLane : Obligations.UnpackWritesEveryLane := by
  unfold Obligations.UnpackWritesEveryLane
  intro s d src spr rows dst rb hd hready
  obtain ⟨m, hexec, hbytes, hsame⟩ := (execUnpack_answers d src spr rows dst s).completes
    (unpackCheck_eq_none.mpr ⟨hd, hready⟩) (length_unpackRows _ _ _ _)
  refine ⟨m, hexec, fun r hr i hi => ?_, hsame⟩
  have hin : i * d.toNat / 8 < packedBytes spr.toNat d.toNat := lane_index_lt hd hi
  rw [Nat.add_assoc, hbytes _ (block_lt hr hi), unpackRows, if_neg (by omega),
    getD_flatMap_range (fun _ _ => length_unpackRow _ _ _) hr hi, toNat_getD_unpackRow hd _ hi, getD_slice _ _ _ _ hin,
    getD_read _ _ (block_lt hr hin), ← Nat.add_assoc]
  rfl

/-! ### PACK (R143) -/

theorem firstWide_eq_none {d i : Nat} {s : List Byte} (h : ∀ v ∈ s, v.toNat < 2 ^ d) : firstWide d i s = none := by
  induction s generalizing i with
  | nil => rfl
  | cons v s ih => rw [firstWide, if_pos (h v (by simp)), ih fun u hu => h u (by simp [hu])]

/-- R143: the first sample that does not fit is the one found. -/
theorem firstWide_eq_some {d i j : Nat} {s : List Byte} (hj : j < s.length) (hfit : ∀ k < j, (s.getD k 0).toNat < 2 ^ d)
    (hwide : 2 ^ d ≤ (s.getD j 0).toNat) : firstWide d i s = some (i + j, s.getD j 0) := by
  induction s generalizing i j with
  | nil => simp at hj
  | cons v s ih =>
    rw [firstWide]
    cases j with
    | zero => rw [if_neg (by simpa using hwide)]; rfl
    | succ j =>
      rw [if_pos (by simpa using hfit 0 (by omega)), ih (by simpa using hj) (fun k hk => by simpa using hfit (k + 1) (by omega))
        (by simpa using hwide), List.getD_cons_succ, Nat.add_assoc, Nat.add_comm 1]

/-- Every byte of a read fits when every byte of its range does. -/
theorem read_fits {m : Memory} {a n bound : Nat} (h : ∀ j < n, (m.byte (a + j)).toNat < bound) :
    ∀ v ∈ m.read a n, v.toNat < bound := by
  intro v hv
  obtain ⟨j, hj, rfl⟩ := List.mem_map.mp hv
  exact h j (List.mem_range.mp hj)

theorem mem_of_mem_slice {s : List Byte} {i n : Nat} {v : Byte} (h : v ∈ slice s i n) : v ∈ s :=
  List.mem_of_mem_drop (List.mem_of_mem_take h)

/-- R143: packing samples that fit, row by row. -/
theorem packRows_of_fits {d spr rows : Nat} {src : List Byte} (h : ∀ v ∈ src, v.toNat < 2 ^ d) :
    packRows src d spr rows =
      .ok (if spr = 0 then [] else (List.range rows).flatMap fun r => packRow (slice src (r * spr) spr) d spr) := by
  rw [packRows, firstWide_eq_none h]

/-- Settles O17: lane `i` of row `r` is at its place in the rows laid end to end. -/
theorem packFillsEveryLane : Obligations.PackFillsEveryLane := by
  unfold Obligations.PackFillsEveryLane
  intro s d src spr rows dst rb hd hready hfit
  have hfits := read_fits hfit
  have hok := packRows_of_fits (spr := spr.toNat) (rows := rows.toNat) hfits
  obtain ⟨m, hexec, hbytes, hsame⟩ := (execPack_answers d src spr rows dst s).completes_of_ok
    (packCheck_eq_none.mpr ⟨hd, hready⟩) hok (length_packRows hok)
  have hlane : ∀ r < rows.toNat, ∀ i, i * d.toNat / 8 < packedBytes spr.toNat d.toNat →
      lane (m.byte (dst.toNat + r * packedBytes spr.toNat d.toNat + i * d.toNat / 8)) d.toNat i =
        if i < spr.toNat then ((slice (s.mem.read src.toNat (rows.toNat * spr.toNat)) (r * spr.toNat) spr.toNat).getD i 0).toNat
        else 0 := by
    intro r hr i hi
    have hspr : spr.toNat ≠ 0 := fun h => by
      have : packedBytes spr.toNat d.toNat = 0 := by simp [packedBytes, h, divCeil]
      omega
    rw [Nat.add_assoc, hbytes _ (block_lt hr hi), if_neg hspr, getD_flatMap_range (fun _ _ => length_packRow _ _ _) hr hi]
    exact lane_packRow hd (fun v hv => hfits v (mem_of_mem_slice hv)) hi
  refine ⟨m, hexec, fun r hr i hi => (hlane r hr i (lane_index_lt hd hi)).trans ?_,
    fun r hr i hi hin => (hlane r hr i hin).trans (if_neg (by omega)), hsame⟩
  rw [if_pos hi, getD_slice _ _ _ _ hi, getD_read _ _ (block_lt hr hi), Nat.add_assoc]

/-- Settles O18: the first wide sample in the source is the fault. -/
theorem packRefusesTheFirstWideSample : Obligations.PackRefusesTheFirstWideSample := by
  unfold Obligations.PackRefusesTheFirstWideSample
  intro s d src spr rows dst j rb hd hready hj hfit hwide
  have hfirst : firstWide d.toNat 0 (s.mem.read src.toNat (rows.toNat * spr.toNat)) = some (0 + j, s.mem.byte (src.toNat + j)) := by
    rw [← getD_read s.mem src.toNat hj] at hwide ⊢
    refine firstWide_eq_some (by simpa using hj) (fun k hk => ?_) hwide
    rw [getD_read _ _ (by omega)]
    exact hfit k hk
  refine (execPack_answers d src spr rows dst s).fault_of_error (packCheck_eq_none.mpr ⟨hd, hready⟩)
    (f := raiseSampleRange (s.mem.byte (src.toNat + j)) (j % 2 ^ 32) d.toNat) ?_
  rw [packRows, hfirst, Nat.zero_add]

end Sys2Proof.Machine
end

section
/-!
PROOFS about the scanline filter unit (42_filter.md rules R160 to R176). A line is known byte by byte: the neighbours of a byte stand
before it (`predAt_congr`), so what the loop of R164 has produced so far already fixes the next byte. The claims speak of lines as
functions of row and position; `lineByte` reads the model's list of lines that way.
-/

namespace Sys2Proof.Machine

open Sys2Proof.Claims

/-! ### Tags (R160, R162) -/

@[simp] theorem FilterKind.ofTag_tag (k : FilterKind) : FilterKind.ofTag k.tag = some k := by cases k <;> rfl

theorem FilterKind.ofTag_of_le {t : Byte} (h : t.toNat ≤ 4) : ∃ k, FilterKind.ofTag t = some k ∧ k.tag = t := by
  have hcases : t = 0 ∨ t = 1 ∨ t = 2 ∨ t = 3 ∨ t = 4 := by bv_omega
  rcases hcases with rfl | rfl | rfl | rfl | rfl <;> exact ⟨_, rfl, rfl⟩

theorem FilterKind.tag_of_ofTag {t : Byte} {k : FilterKind} (h : FilterKind.ofTag t = some k) : k.tag = t := by
  unfold FilterKind.ofTag at h
  split at h <;> cases h <;> exact BitVec.eq_of_toNat_eq (Eq.symm ‹_›)

theorem FilterKind.toNat_tag_le (k : FilterKind) : k.tag.toNat ≤ 4 := by cases k <;> decide

theorem FilterKind.ofTag_of_lt {t : Byte} (h : 4 < t.toNat) : FilterKind.ofTag t = Option.none := by
  refine Option.eq_none_iff_forall_ne_some.mpr fun k hk => ?_
  have := k.toNat_tag_le
  rw [FilterKind.tag_of_ofTag hk] at this
  omega

/-- R162: the model's predictor is the claims'. -/
theorem pred_eq_predictor (k : FilterKind) (a b c : Nat) : pred k a b c = predictor k.tag.toNat a b c := by cases k <;> rfl

/-! ### Lines as functions of row and position -/

/-- Byte `i` of line `r`. -/
def lineByte (lines : List (List Byte)) (r i : Nat) : Byte := (lines.getD r []).getD i 0

/-- R166: the line above line `r`; above the first line stands `prev`. -/
def lineAbove (prev : List Byte) (lines : List (List Byte)) (r : Nat) : List Byte := (prev :: lines).getD r []

/-- R161, R162: the predictor of the model is the claims', above the first line everything being 0. -/
theorem predAt_eq_predicted (k : FilterKind) (lines : List (List Byte)) (bpp rb r i : Nat) :
    predAt k (lines.getD r []) (lineAbove (zeros rb) lines r) bpp i =
      BitVec.ofNat 8 (predicted k.tag.toNat (lineByte lines) bpp r i) := by
  have hleft : ∀ line : List Byte, (leftByte line bpp i).toNat = left (fun i => line.getD i 0) bpp i := fun line => by
    unfold leftByte left
    split <;> rfl
  rw [predAt, pred_eq_predictor, predicted, hleft, hleft]
  cases r with
  | zero =>
    have hzero : (0 : Byte).toNat = 0 := rfl
    simp only [lineAbove, List.getD_cons_zero, getD_zeros, left, hzero, ite_self, if_true]
    rfl
  | succ r => rfl

/-- R161: only the bytes of lines up to `r` at places below `rb` matter. -/
theorem predicted_congr {tag bpp rb r i : Nat} {L L' : Nat → Nat → Byte} (hi : i < rb)
    (h : ∀ r' ≤ r, ∀ i' < rb, L r' i' = L' r' i') : predicted tag L bpp r i = predicted tag L' bpp r i := by
  have hleft : ∀ r' ≤ r, left (L r') bpp i = left (L' r') bpp i := fun r' hr' => by
    unfold left
    rw [h r' hr' (i - bpp) (by omega)]
  unfold predicted
  rw [hleft r le_rfl, hleft (r - 1) (by omega), h (r - 1) (by omega) i hi]

/-- R164: reconstruction speaks only of the bytes of the lines, the filtered bytes and the tags. -/
theorem reconstructs_congr {tag tag' : Nat → Byte} {f f' L L' : Nat → Nat → Byte} {bpp rb rows : Nat}
    (h : Reconstructs tag f bpp rb rows L) (htag : ∀ r < rows, tag r = tag' r) (hf : ∀ r < rows, ∀ i < rb, f r i = f' r i)
    (hL : ∀ r < rows, ∀ i < rb, L r i = L' r i) : Reconstructs tag' f' bpp rb rows L' := by
  intro r hr i hi
  rw [← htag r hr, ← hf r hr i hi, ← hL r hr i hi, h r hr i hi,
    predicted_congr hi fun r' hr' i' hi' => hL r' (by omega) i' hi']

theorem getD_length {lines : List (List Byte)} {rb r : Nat} (hlen : ∀ l ∈ lines, l.length = rb) (hr : r < lines.length) :
    (lines.getD r []).length = rb := by
  rw [List.getD_eq_getElem?_getD, List.getElem?_eq_getElem hr]
  exact hlen _ (List.getElem_mem hr)

/-- Lines of one length laid end to end. -/
theorem getD_flatten {lines : List (List Byte)} {rb r i : Nat} (hlen : ∀ l ∈ lines, l.length = rb) (hr : r < lines.length)
    (hi : i < rb) : lines.flatten.getD (r * rb + i) 0 = lineByte lines r i := by
  induction lines generalizing r with
  | nil => simp at hr
  | cons l ls ih =>
    have hl : l.length = rb := hlen l (by simp)
    rw [List.flatten_cons]
    cases r with
    | zero => rw [Nat.zero_mul, Nat.zero_add, getD_append_left _ (hl ▸ hi)]; rfl
    | succ r =>
      rw [show (r + 1) * rb + i = l.length + (r * rb + i) by rw [hl]; ring, getD_append_right]
      exact ih (fun m hm => hlen m (by simp [hm])) (by simpa using hr)

/-! ### Unfiltering a line (R164) -/

/-- R161: a neighbour in the same line stands before the byte. -/
theorem predAt_congr {k : FilterKind} {line line' prev : List Byte} {bpp i : Nat} (hbpp : 1 ≤ bpp)
    (h : ∀ j < i, line.getD j 0 = line'.getD j 0) : predAt k line prev bpp i = predAt k line' prev bpp i := by
  have hleft : leftByte line bpp i = leftByte line' bpp i := by
    unfold leftByte
    split
    · exact h _ (by omega)
    · rfl
  rw [predAt, predAt, hleft]

section
variable {bpp : Nat} (hbpp : 1 ≤ bpp)
include hbpp

/-- R164: the loop keeps what it has, and every byte it adds is the filtered byte plus the predictor of the result. -/
theorem getD_unfilterFrom (k : FilterKind) (prev cur f : List Byte) :
    (∀ i < cur.length, (unfilterFrom k prev bpp cur f).getD i 0 = cur.getD i 0) ∧
    ∀ i < f.length, (unfilterFrom k prev bpp cur f).getD (cur.length + i) 0 =
      f.getD i 0 + predAt k (unfilterFrom k prev bpp cur f) prev bpp (cur.length + i) := by
  induction f generalizing cur with
  | nil => exact ⟨fun _ _ => rfl, fun i hi => absurd hi (by simp)⟩
  | cons b f ih =>
    rw [unfilterFrom]
    obtain ⟨hkept, hadded⟩ := ih (cur ++ [b + predAt k cur prev bpp cur.length])
    rw [List.length_append, List.length_singleton] at hkept hadded
    have hcur : ∀ i < cur.length,
        (unfilterFrom k prev bpp (cur ++ [b + predAt k cur prev bpp cur.length]) f).getD i 0 = cur.getD i 0 :=
      fun i hi => (hkept i (by omega)).trans (getD_append_left _ hi)
    refine ⟨hcur, fun i hi => ?_⟩
    cases i with
    | zero =>
      rw [Nat.add_zero, predAt_congr hbpp hcur, hkept _ (by omega)]
      exact getD_append_right cur _ 0
    | succ i =>
      rw [show cur.length + (i + 1) = cur.length + 1 + i by omega, hadded i (by simpa using hi)]
      rfl

/-- R164: every byte is the filtered byte plus the predictor of the line itself. -/
theorem getD_unfilterLine (k : FilterKind) (f prev : List Byte) {i : Nat} (hi : i < f.length) :
    (unfilterLine k f prev bpp).getD i 0 = f.getD i 0 + predAt k (unfilterLine k f prev bpp) prev bpp i := by
  simpa [unfilterLine] using (getD_unfilterFrom hbpp k prev [] f).2 i hi

/-- R176: from the left, each byte gets back the predictor that was subtracted. -/
theorem unfilterLine_filterLine (k : FilterKind) (o prev : List Byte) : unfilterLine k (filterLine k o prev bpp) prev bpp = o := by
  refine eq_of_getD (by simp) fun i => ?_
  rw [length_unfilterLine, length_filterLine]
  induction i using Nat.strong_induction_on with
  | h i ih =>
    intro hi
    rw [getD_unfilterLine hbpp k _ prev (by simpa using hi), predAt_congr hbpp fun j hj => ih j hj (by omega), filterLine,
      getD_range_map _ hi, BitVec.sub_add_cancel]

end

/-! ### Unfiltering a pass (R166) -/

/-- R166: the tag of row `r` of a filtered stream. -/
def rowTag (s : List Byte) (rb r : Nat) : Byte := s.getD (r * (rb + 1)) 0

theorem rowTag_succ (s : List Byte) (rb r : Nat) : rowTag (s.drop (rb + 1)) rb r = rowTag s rb (r + 1) := by
  rw [rowTag, getD_drop, rowTag]
  congr 1
  ring

theorem rowTag_zero (s : List Byte) (rb : Nat) : rowTag s rb 0 = s.getD 0 0 := by rw [rowTag, Nat.zero_mul]

theorem unfilterRows_ok {rb bpp r n : Nat} {s prev : List Byte} (htag : ∀ i < n, (rowTag s rb i).toNat ≤ 4) :
    ∃ lines, unfilterRows rb bpp r n s prev = .ok lines := by
  induction n generalizing r s prev with
  | zero => exact ⟨[], rfl⟩
  | succ n ih =>
    obtain ⟨k, hk, -⟩ := FilterKind.ofTag_of_le (rowTag_zero s rb ▸ htag 0 (by omega))
    obtain ⟨lines, hlines⟩ := ih (r := r + 1) (s := s.drop (rb + 1)) (prev := unfilterLine k (slice s 1 rb) prev bpp)
      fun i hi => rowTag_succ s rb i ▸ htag (i + 1) (by omega)
    exact ⟨_, by rw [unfilterRows, hk]; simp only [hlines]; rfl⟩

/-- R166: the first bad tag is the fault. -/
theorem unfilterRows_bad_tag {rb bpp r n row : Nat} {s prev : List Byte} (hrow : row < n)
    (htag : ∀ i < row, (rowTag s rb i).toNat ≤ 4) (hbad : 4 < (rowTag s rb row).toNat) :
    unfilterRows rb bpp r n s prev = .error (raiseBadFilter (rowTag s rb row) ((r + row) % 2 ^ 32)) := by
  induction n generalizing r s prev row with
  | zero => omega
  | succ n ih =>
    rw [unfilterRows]
    cases row with
    | zero =>
      rw [rowTag_zero] at hbad ⊢
      rw [FilterKind.ofTag_of_lt hbad]
      rfl
    | succ row =>
      obtain ⟨k, hk, -⟩ := FilterKind.ofTag_of_le (rowTag_zero s rb ▸ htag 0 (by omega))
      rw [← rowTag_succ] at hbad ⊢
      simp only [hk, ih (r := r + 1) (prev := unfilterLine k (slice s 1 rb) prev bpp) (by omega : row < n)
        (fun i hi => rowTag_succ s rb i ▸ htag (i + 1) (by omega)) hbad]
      rw [Nat.add_assoc, Nat.add_comm 1]

/-- R166: every line of a pass is its filtered row, unfiltered under the line above it. -/
theorem unfilterRows_getD {rb bpp r n : Nat} {s prev : List Byte} {lines : List (List Byte)}
    (h : unfilterRows rb bpp r n s prev = .ok lines) {i : Nat} (hi : i < n) :
    ∃ k, FilterKind.ofTag (rowTag s rb i) = some k ∧
      lines.getD i [] = unfilterLine k (slice s (i * (rb + 1) + 1) rb) (lineAbove prev lines i) bpp := by
  induction n generalizing r s prev lines i with
  | zero => omega
  | succ n ih =>
    rw [unfilterRows] at h
    dsimp only at h
    split at h
    · cases h
    · next k hk =>
      split at h
      · cases h
      · next ls hls =>
        cases h
        cases i with
        | zero => exact ⟨k, rowTag_zero s rb ▸ hk, by rw [Nat.zero_mul]; rfl⟩
        | succ i =>
          obtain ⟨k', hk', hline⟩ := ih hls (show i < n by omega)
          refine ⟨k', rowTag_succ s rb i ▸ hk', hline.trans ?_⟩
          rw [slice, slice, List.drop_drop, show rb + 1 + (i * (rb + 1) + 1) = (i + 1) * (rb + 1) + 1 by ring]
          rfl

/-- R164, R166: unfiltering a pass whose tags are all legal gives lines that reconstruct it. -/
theorem unfilterPass_reconstructs {s : List Byte} {rb rows bpp : Nat} (hbpp : 1 ≤ bpp) (hs : rows * (rb + 1) ≤ s.length)
    {lines : List (List Byte)} (hok : unfilterPass s rb rows bpp = .ok lines) :
    Reconstructs (rowTag s rb) (fun r i => s.getD (r * (rb + 1) + 1 + i) 0) bpp rb rows (lineByte lines) := by
  intro r hr i hi
  obtain ⟨k, hk, hline⟩ := unfilterRows_getD hok hr
  have hlen : (slice s (r * (rb + 1) + 1) rb).length = rb := length_slice _ _ _ (by
    have := block_le (k := rb + 1) hr
    omega)
  have hbyte := getD_unfilterLine hbpp k (slice s (r * (rb + 1) + 1) rb) (lineAbove (zeros rb) lines r) (hlen.symm ▸ hi)
  rw [← hline, getD_slice _ _ _ _ hi, predAt_eq_predicted, FilterKind.tag_of_ofTag hk] at hbyte
  rw [lineByte, hbyte, BitVec.toNat_add, BitVec.toNat_ofNat, Nat.add_mod_mod]

/-! ### Filtering a pass (R167) -/

/-- R167: every row of a filtered stream is its tag and its filtered line. -/
theorem filterRows_eq_flatMap (k : FilterKind) (bpp : Nat) (lines : List (List Byte)) (prev : List Byte) :
    filterRows k bpp lines prev =
      (List.range lines.length).flatMap fun r => k.tag :: filterLine k (lines.getD r []) (lineAbove prev lines r) bpp := by
  induction lines generalizing prev with
  | nil => rfl
  | cons o ls ih =>
    rw [filterRows, ih, List.length_cons, List.range_succ_eq_map, List.flatMap_cons, List.flatMap_map]
    rfl

/-- R176: unfiltering a filtered pass gives its lines back. -/
theorem unfilterRows_filterRows {k : FilterKind} {bpp rb r : Nat} (hbpp : 1 ≤ bpp) {lines : List (List Byte)} {prev : List Byte}
    (hlen : ∀ l ∈ lines, l.length = rb) :
    unfilterRows rb bpp r lines.length (filterRows k bpp lines prev) prev = .ok lines := by
  induction lines generalizing r prev with
  | nil => rfl
  | cons o ls ih =>
    have hline : (filterLine k o prev bpp).length = rb := by rw [length_filterLine]; exact hlen o (by simp)
    have hrest := ih (r := r + 1) (prev := o) fun l hl => hlen l (by simp [hl])
    rw [List.length_cons, unfilterRows, filterRows, List.cons_append, List.getD_cons_zero, FilterKind.ofTag_tag]
    simp only [slice, List.drop_succ_cons, List.drop_zero, List.take_left' hline, List.drop_left' hline,
      unfilterLine_filterLine hbpp, hrest]

/-- Settles O24: a line is given back from the left, a pass from the top. -/
theorem unfilterInvertsFilter : Obligations.UnfilterInvertsFilter := by
  unfold Obligations.UnfilterInvertsFilter
  exact ⟨fun k _ o prev hbpp _ => unfilterLine_filterLine hbpp k o prev, fun _ _ _ _ hbpp hlen => unfilterRows_filterRows hbpp hlen⟩

/-! ### UNFILT (R170) and FILT (R175) -/

/-- R166: a tag of the stream in memory. -/
theorem rowTag_read (m : Memory) (a : Nat) {rb rows r : Nat} (hr : r < rows) :
    rowTag (m.read a (rows * (rb + 1))) rb r = m.byte (a + r * (rb + 1)) := by
  rw [rowTag, getD_read _ _ (by simpa using block_lt (j := 0) (k := rb + 1) hr (by omega))]

/-- Settles O21: the lines of the pass reconstruct it, and the rows written are the lines laid end to end. -/
theorem unfiltReconstructsEveryByte : Obligations.UnfiltReconstructsEveryByte := by
  unfold Obligations.UnfiltReconstructsEveryByte
  intro s bpp src rb rows dst hbpp hready htag
  have hs : rows.toNat * (rb.toNat + 1) ≤ (s.mem.read src.toNat (rows.toNat * (rb.toNat + 1))).length := by simp
  obtain ⟨lines, hlines⟩ : ∃ lines, unfilterPass (s.mem.read src.toNat (rows.toNat * (rb.toNat + 1))) rb.toNat rows.toNat bpp.toNat =
      .ok lines := unfilterRows_ok fun r hr => by rw [rowTag_read _ _ hr]; exact htag r hr
  obtain ⟨hcount, hsize⟩ := unfilterPass_lines hs hlines
  have hresult : unfiltResult bpp src rb rows s = .ok lines.flatten := by rw [unfiltResult, hlines]; rfl
  obtain ⟨m, hexec, hbytes, hsame⟩ := (execUnfilt_answers bpp src rb rows dst s).completes_of_ok
    (unfiltCheck_eq_none.mpr ⟨hbpp, hready⟩) hresult (by rw [length_flatten_const hsize, hcount])
  refine ⟨m, hexec, reconstructs_congr (unfilterPass_reconstructs hbpp.1 hs hlines) (fun r hr => rowTag_read _ _ hr)
    (fun r hr i hi => ?_) (fun r hr i hi => ?_), hsame⟩
  · rw [Nat.add_assoc, getD_read _ _ (block_lt hr (by omega))]
    simp only [Nat.add_assoc]
  · rw [← getD_flatten hsize (hcount ▸ hr) hi, ← hbytes _ (block_lt hr hi), Nat.add_assoc]

/-- Settles O22: the first bad tag of the pass is the fault. -/
theorem unfiltRefusesTheFirstBadTag : Obligations.UnfiltRefusesTheFirstBadTag := by
  unfold Obligations.UnfiltRefusesTheFirstBadTag
  intro s bpp src rb rows dst row hbpp hready hrow htag hbad
  refine (execUnfilt_answers bpp src rb rows dst s).fault_of_error (unfiltCheck_eq_none.mpr ⟨hbpp, hready⟩)
    (f := raiseBadFilter (s.mem.byte (src.toNat + row * (rb.toNat + 1))) (row % 2 ^ 32)) ?_
  rw [← rowTag_read _ _ hrow] at hbad ⊢
  rw [unfiltResult, unfilterPass, unfilterRows_bad_tag hrow
    (fun r hr => by rw [rowTag_read _ _ (by omega)]; exact htag r hr) hbad, Nat.zero_add]
  rfl

theorem getD_rowsOf (s : List Byte) (rb : Nat) {rows r : Nat} (hr : r < rows) : (rowsOf s rb rows).getD r [] = slice s (r * rb) rb := by
  simp [rowsOf, List.getD_eq_getElem?_getD, hr]

/-- Settles O23: every row of the stream is the tag and the line less its predictors. -/
theorem filtSubtractsThePredictor : Obligations.FiltSubtractsThePredictor := by
  unfold Obligations.FiltSubtractsThePredictor
  intro s bpp kind src rb rows dst hbpp hkind hready
  obtain ⟨k, hk, rfl⟩ := FilterKind.ofTag_of_le hkind
  have hfilt : filtKind k.tag = k := by rw [filtKind, hk]; rfl
  have hfits : rows.toNat * rb.toNat ≤ (s.mem.read src.toNat (rows.toNat * rb.toNat)).length := by simp
  obtain ⟨m, hexec, hbytes, hsame⟩ := (execFilt_answers bpp k.tag src rb rows dst s).completes
    (filtCheck_eq_none.mpr ⟨hbpp, hkind, hready⟩) (length_filterPass _ _ _ _ _ hfits)
  generalize hlines : rowsOf (s.mem.read src.toNat (rows.toNat * rb.toNat)) rb.toNat rows.toNat = lines at hbytes
  obtain ⟨hcount, hsize⟩ := hlines ▸ rowsOf_lines _ _ _ hfits
  have hline : ∀ r < rows.toNat, ∀ i < rb.toNat, lineByte lines r i = s.mem.byte (src.toNat + r * rb.toNat + i) := by
    intro r hr i hi
    rw [lineByte, ← hlines, getD_rowsOf _ _ hr, getD_slice _ _ _ _ hi, getD_read _ _ (block_lt hr hi), Nat.add_assoc]
  have hrow : ∀ r < rows.toNat, ∀ i < rb.toNat + 1, m.byte (dst.toNat + r * (rb.toNat + 1) + i) =
      (k.tag :: filterLine k (lines.getD r []) (lineAbove (zeros rb.toNat) lines r) bpp.toNat).getD i 0 := by
    intro r hr i hi
    rw [Nat.add_assoc, hbytes _ (block_lt hr hi), hfilt, filterPass, filterRows_eq_flatMap, hcount,
      getD_flatMap_range (fun r hr => ?_) hr hi]
    rw [List.length_cons, length_filterLine, getD_length hsize (hcount.symm ▸ hr)]
  refine ⟨m, hexec, fun r hr => ⟨hrow r hr 0 (by omega), fun i hi => ?_⟩, hsame⟩
  rw [Nat.add_assoc, Nat.add_comm 1, hrow r hr (i + 1) (by omega), List.getD_cons_succ, filterLine,
    getD_range_map _ (by rwa [getD_length hsize (hcount.symm ▸ hr)]), predAt_eq_predicted]
  have hpred : predicted k.tag.toNat (lineByte lines) bpp.toNat r i =
      predicted k.tag.toNat (fun r i => s.mem.byte (src.toNat + r * rb.toNat + i)) bpp.toNat r i :=
    predicted_congr hi fun r' hr' i' hi' => hline r' (by omega) i' hi'
  rw [hpred]
  exact congrArg (· - _) (hline r hr i hi)

end Sys2Proof.Machine
end

section
/-!
PROOFS about DEINT and SWAP16 (43_interlace.md rules R193 to R196, R199). A pass of the stream is a stretch of it, whose rows the filter
unit reconstructs; where the stretch begins is all that `streamTag` adds to `rowTag`.
-/

namespace Sys2Proof.Machine

open Sys2Proof.Claims

/-! ### The stretches of a stream (R193) -/

/-- R193: the tag of row `row` of pass number `k` of the passes. -/
def streamTag (d c w h : Nat) (ps : List Pass) (s : List Byte) (k row : Nat) (p : Pass) : Byte :=
  s.getD (rowAddr d c w (stretchStart d c w h ps k) row p) 0

/-- R193: a byte of a row of a pass lies in the pass. -/
theorem pass_row_lt {d c w h row x : Nat} {p : Pass} (hrow : row < p.height h) (hx : x < 1 + passRowBytes d c (p.width w)) :
    row * (1 + passRowBytes d c (p.width w)) + x < passBytes d c w h p := block_lt hrow hx

/-- R193: the stretch of a pass lies in the stream. -/
theorem stretch_le {d c w h : Nat} {ps : List Pass} {k : Nat} (hk : k < ps.length) :
    stretchStart d c w h ps k + passBytes d c w h ps[k] ≤ (ps.map (passBytes d c w h)).sum := by
  induction ps generalizing k with
  | nil => simp at hk
  | cons p ps ih =>
    rw [List.map_cons, List.sum_cons]
    cases k with
    | zero => simp
    | succ k =>
      have := ih (k := k) (by simpa using hk)
      rw [stretchStart_succ, List.getElem_cons_succ]
      omega

theorem rowTag_take {d c w h row : Nat} {p : Pass} (s : List Byte) (hrow : row < p.height h) :
    rowTag (s.take (passBytes d c w h p)) (passRowBytes d c (p.width w)) row = s.getD (rowAddr d c w 0 row p) 0 := by
  rw [rowTag, Nat.add_comm _ 1, getD_take (by simpa using pass_row_lt (x := 0) hrow (by omega)), rowAddr, Nat.zero_add]

theorem streamTag_zero {d c w h row : Nat} {p : Pass} (ps : List Pass) (s : List Byte) (hrow : row < p.height h) :
    rowTag (s.take (passBytes d c w h p)) (passRowBytes d c (p.width w)) row = streamTag d c w h ps s 0 row p :=
  rowTag_take s hrow

theorem streamTag_succ (d c w h : Nat) (p q : Pass) (ps : List Pass) (s : List Byte) (k row : Nat) :
    streamTag d c w h ps (s.drop (passBytes d c w h p)) k row q = streamTag d c w h (p :: ps) s (k + 1) row q := by
  rw [streamTag, getD_drop, streamTag, stretchStart_succ, rowAddr, rowAddr, Nat.add_assoc]

/-! ### Reassembly of a stream with legal tags, and of one without (R195) -/

theorem reassemblePasses_of_legal_tags {d c w h : Nat} {ps : List Pass} {s raster : List Byte}
    (htag : ∀ k, (hk : k < ps.length) → ∀ row < ps[k].height h, (streamTag d c w h ps s k row ps[k]).toNat ≤ 4) :
    ∃ out, reassemblePasses d c w h ps s raster = .ok out := by
  induction ps generalizing s raster with
  | nil => exact ⟨raster, rfl⟩
  | cons p ps ih =>
    obtain ⟨lines, hlines⟩ : ∃ lines, unfilterPass (s.take (passBytes d c w h p)) (passRowBytes d c (p.width w)) (p.height h)
        (bppOf d c) = .ok lines :=
      unfilterRows_ok fun row hrow => by rw [streamTag_zero (p :: ps) s hrow]; exact htag 0 (by simp) row hrow
    obtain ⟨out, hout⟩ := ih (s := s.drop (passBytes d c w h p)) (raster := scatterRows d c w p 0 lines raster)
      fun k hk row hrow => by rw [streamTag_succ]; exact htag (k + 1) (by simpa using hk) row hrow
    exact ⟨out, by simp only [reassemblePasses, hlines, hout]⟩

/-- R166, R195: the first bad tag in stream order is the fault. -/
theorem reassemblePasses_bad_tag {d c w h : Nat} {ps : List Pass} {s raster : List Byte} {k row : Nat} (hk : k < ps.length)
    (hrow : row < ps[k].height h)
    (htag : ∀ k', (hk' : k' < ps.length) → ∀ row' < ps[k'].height h, k' < k ∨ (k' = k ∧ row' < row) →
      (streamTag d c w h ps s k' row' ps[k']).toNat ≤ 4)
    (hbad : 4 < (streamTag d c w h ps s k row ps[k]).toNat) :
    reassemblePasses d c w h ps s raster = .error (raiseBadFilter (streamTag d c w h ps s k row ps[k]) (row % 2 ^ 32)) := by
  induction ps generalizing s raster k with
  | nil => simp at hk
  | cons p ps ih =>
    rw [reassemblePasses]
    cases k with
    | zero =>
      rw [List.getElem_cons_zero] at hrow hbad ⊢
      rw [← streamTag_zero (p :: ps) s hrow] at hbad ⊢
      have hfault := unfilterRows_bad_tag (bpp := bppOf d c) (r := 0) (prev := zeros (passRowBytes d c (p.width w))) hrow
        (fun i hi => by rw [streamTag_zero (p :: ps) s (by omega)]; exact htag 0 hk i (hi.trans hrow) (.inr ⟨rfl, hi⟩)) hbad
      rw [Nat.zero_add] at hfault
      simp only [unfilterPass, hfault]
    | succ k =>
      obtain ⟨lines, hlines⟩ : ∃ lines, unfilterPass (s.take (passBytes d c w h p)) (passRowBytes d c (p.width w)) (p.height h)
          (bppOf d c) = .ok lines :=
        unfilterRows_ok fun row' hrow' => by
          rw [streamTag_zero (p :: ps) s hrow']
          exact htag 0 (by simp) row' hrow' (.inl (by omega))
      rw [List.getElem_cons_succ] at hrow hbad ⊢
      rw [← streamTag_succ] at hbad ⊢
      simp only [hlines]
      refine ih (by simpa using hk) hrow (fun k' hk' row' hrow' hbefore => ?_) hbad
      rw [streamTag_succ]
      exact htag (k' + 1) (by simpa using hk') row' hrow' (by omega)

/-! ### DEINT (R196) -/

theorem one_le_bppOf {d c : Nat} (hd : d ∈ [1, 2, 4, 8, 16]) (hc : 1 ≤ c) : 1 ≤ bppOf d c := by
  have hpos : 0 < divCeil d 8 := by simp at hd; rcases hd with rfl | rfl | rfl | rfl | rfl <;> decide
  exact Nat.mul_pos hpos hc

theorem mem_packed_depths {d : Nat} (hd : d ∈ [1, 2, 4, 8, 16]) (h8 : d < 8) : d ∈ [1, 2, 4] := by
  simp only [List.mem_cons, List.not_mem_nil, or_false] at hd ⊢
  omega

theorem lineByte_eq_getElem {lines : List (List Byte)} {r : Nat} (h : r < lines.length) (i : Nat) :
    lineByte lines r i = lines[r].getD i 0 := by
  rw [lineByte, List.getD_eq_getElem _ _ h]

/-- R193: the tag of a row in a stream in memory. -/
theorem streamTag_read (m : Memory) (a : Nat) {d c w h : Nat} {ps : List Pass} {k row : Nat} (hk : k < ps.length)
    (hrow : row < ps[k].height h) :
    streamTag d c w h ps (m.read a (ps.map (passBytes d c w h)).sum) k row ps[k] =
      m.byte (rowAddr d c w (a + stretchStart d c w h ps k) row ps[k]) := by
  have hstretch := stretch_le (d := d) (c := c) (w := w) (h := h) hk
  have hin := pass_row_lt (d := d) (c := c) (w := w) (x := 0) hrow (by omega)
  rw [streamTag, getD_read _ _ (by rw [rowAddr]; omega), rowAddr, rowAddr, Nat.add_assoc]

/-- R164, R193: the lines of a pass reconstruct its stretch of the stream in memory. -/
theorem stretch_reconstructs {m : Memory} {a d c w h : Nat} {ps : List Pass} {k : Nat} (hd : d ∈ [1, 2, 4, 8, 16]) (hc : 1 ≤ c)
    (hk : k < ps.length) {lines : List (List Byte)}
    (hok : unfilterPass (slice (m.read a (ps.map (passBytes d c w h)).sum) (stretchStart d c w h ps k) (passBytes d c w h ps[k]))
      (passRowBytes d c (ps[k].width w)) (ps[k].height h) (bppOf d c) = .ok lines) :
    Reconstructs (fun r => m.byte (rowAddr d c w (a + stretchStart d c w h ps k) r ps[k]))
      (fun r i => m.byte (rowAddr d c w (a + stretchStart d c w h ps k) r ps[k] + 1 + i)) (bppOf d c)
      (passRowBytes d c (ps[k].width w)) (ps[k].height h) (lineByte lines) := by
  rw [slice_read _ _ (stretch_le hk)] at hok
  have hbytes : passBytes d c w h ps[k] = ps[k].height h * (passRowBytes d c (ps[k].width w) + 1) := by
    rw [passBytes, Nat.add_comm 1]
  rw [hbytes] at hok
  refine reconstructs_congr (unfilterPass_reconstructs (one_le_bppOf hd hc) (by simp) hok) (fun r hr => ?_) (fun r hr i hi => ?_)
    fun _ _ _ _ => rfl
  · rw [rowTag_read _ _ hr, rowAddr, Nat.add_comm 1]
  · rw [Nat.add_assoc, getD_read _ _ (block_lt hr (by omega)), rowAddr, Nat.add_comm 1 (passRowBytes _ _ _)]
    simp only [Nat.add_assoc]

/-- R195: a sample of a reconstructed row in the raster: a lane below depth 8, a byte otherwise. -/
theorem toNat_rasterRow {d c pw col j : Nat} (hd : d ∈ [1, 2, 4, 8, 16]) (hcol : col < pw) (hj : j < pixBytes d c)
    (line : List Byte) :
    ((rasterRow d c pw line).getD (col * pixBytes d c + j) 0).toNat =
      if d < 8 then lane (line.getD ((col * c + j) * d / 8) 0) d (col * c + j)
      else (line.getD (col * pixBytes d c + j) 0).toNat := by
  unfold rasterRow
  split
  · next h8 =>
    rw [pixBytes_of_lt h8] at hj ⊢
    exact toNat_getD_unpackRow (mem_packed_depths hd h8) line (block_lt hcol hj)
  · rfl

/-- Settles O26: pass by pass, the lines of the stretch and their pixels. -/
theorem deintReassemblesEveryPass : Obligations.DeintReassemblesEveryPass := by
  unfold Obligations.DeintReassemblesEveryPass
  intro s depth channels il src w h dst d c W live start himage hready htag
  obtain ⟨hd, ⟨hc, -⟩, -⟩ := id himage
  have hstr : ∀ p ∈ live, p.Strided := fun _ => strided_of_mem_livePasses
  obtain ⟨out, hout⟩ : ∃ out, reassemble d c il.toNat (s.mem.read src.toNat (streamLen d c il.toNat W h.toNat)) W h.toNat = .ok out :=
    reassemblePasses_of_legal_tags fun k hk row hrow => by
      rw [show streamLen d c il.toNat W h.toNat = (live.map (passBytes d c W h.toNat)).sum from rfl, streamTag_read _ _ hk hrow]
      exact htag k hk row hrow
  obtain ⟨hlen, hpasses, -⟩ := reassemblePasses_ok hd hstr (livePasses_disjoint _ _ _) (s.mem.length_read _ _) (length_zeros _) hout
  obtain ⟨m, hexec, hbytes, hsame⟩ := (execDeint_answers depth channels il src w h dst s).completes_of_ok
    (deintCheck_eq_none.mpr ⟨himage, hready⟩) hout hlen
  refine ⟨m, hexec, fun k hk => ?_, hsame⟩
  obtain ⟨lines, hlines, hfits, hpixels⟩ := hpasses k hk
  refine ⟨lineByte lines, stretch_reconstructs hd hc hk hlines, fun row hrow col hcol j hj => ?_⟩
  have hrow' : row < lines.length := hfits.count ▸ hrow
  have hin : pixelOffset live[k] W (pixBytes d c) row col + pixBytes d c ≤ W * h.toNat * pixBytes d c :=
    pixel_le ((Pass.lt_width (hstr _ (List.getElem_mem hk))).mp hcol) ((Pass.lt_height (hstr _ (List.getElem_mem hk))).mp hrow)
  have hbyte : m.byte (dst.toNat + pixelOffset live[k] W (pixBytes d c) row col + j) =
      (rasterRow d c (live[k].width W) lines[row]).getD (col * pixBytes d c + j) 0 := by
    rw [Nat.add_assoc]
    exact (hbytes _ (by show _ < W * h.toNat * pixBytes d c; omega)).trans (hpixels row col hrow' hcol j hj)
  rw [hbyte, toNat_rasterRow hd hcol hj, lineByte_eq_getElem hrow', lineByte_eq_getElem hrow']

/-- Settles O27: the first bad tag in stream order is the fault. -/
theorem deintRefusesTheFirstBadTag : Obligations.DeintRefusesTheFirstBadTag := by
  unfold Obligations.DeintRefusesTheFirstBadTag
  intro s depth channels il src w h dst k row d c W live tag himage hready hk hrow htag hbad
  have htag' : ∀ k', (hk' : k' < live.length) → ∀ row' < live[k'].height h.toNat,
      (streamTag d c W h.toNat live (s.mem.read src.toNat (streamLen d c il.toNat W h.toNat)) k' row' live[k']).toNat =
        tag k' row' live[k'] := fun k' hk' row' hrow' => congrArg BitVec.toNat (streamTag_read _ _ hk' hrow')
  have hfault := reassemblePasses_bad_tag (raster := zeros (rasterBytes d c W h.toNat)) hk hrow
    (fun k' hk' row' hrow' hbefore => (htag' k' hk' row' hrow').trans_le (htag k' hk' row' hrow' hbefore))
    (hbad.trans_eq (htag' k hk row hrow).symm)
  obtain ⟨m, n, hexec, hsame⟩ := (execDeint_answers depth channels il src w h dst s).fault_of_error
    (deintCheck_eq_none.mpr ⟨himage, hready⟩) hfault
  refine ⟨m, n, hexec.trans ?_, hsame⟩
  rw [Raise.report, raiseBadFilter, htag' k hk row hrow]
  rfl

/-! ### DEINT without interlace (R196) -/

/-- R190: the pass of a plain image. -/
def plainPass : Pass := ⟨0, 0, 1, 1⟩

theorem plainPass_width {n : Nat} : plainPass.width n = n := by
  simp [plainPass, Pass.width, divCeil]
  omega

theorem plainPass_height {n : Nat} : plainPass.height n = n := by
  simp [plainPass, Pass.height, divCeil]
  omega

theorem livePasses_plain {w h : Nat} (hw : 1 ≤ w) (hh : 1 ≤ h) : livePasses 0 w h = [plainPass] := by
  show [plainPass].filter _ = _
  simp only [List.filter_cons, plainPass_width, plainPass_height]
  simp [show w ≠ 0 by omega, show h ≠ 0 by omega]

section
variable {d c w h : Nat} (hd : d ∈ [8, 16]) (hw : 1 ≤ w) (hh : 1 ≤ h)
include hd

theorem mem_image_depths : d ∈ [1, 2, 4, 8, 16] := by
  simp only [List.mem_cons, List.not_mem_nil, or_false] at hd ⊢
  omega

theorem not_lt_eight : ¬d < 8 := by
  simp only [List.mem_cons, List.not_mem_nil, or_false] at hd
  omega

theorem pixBytes_of_whole : pixBytes d c = bppOf d c := if_neg (not_lt_eight hd)

include hw hh

theorem streamLen_plain : streamLen d c 0 w h = h * (w * bppOf d c + 1) := by
  rw [streamLen, livePasses_plain hw hh, List.map_singleton, List.sum_singleton, passBytes, plainPass_width, plainPass_height,
    passRowBytes_of_not_lt (mem_image_depths hd) (not_lt_eight hd), pixBytes_of_whole hd, Nat.add_comm 1]

/-- R196: the raster of a plain image is its lines laid end to end. -/
theorem reassemble_plain {s : List Byte} (hs : s.length = streamLen d c 0 w h) :
    reassemble d c 0 s w h = (unfilterPass s (w * bppOf d c) h (bppOf d c)).map List.flatten := by
  have hd' := mem_image_depths hd
  have hrb : passRowBytes d c (plainPass.width w) = w * bppOf d c := by
    rw [plainPass_width, passRowBytes_of_not_lt hd' (not_lt_eight hd), pixBytes_of_whole hd]
  have hlen : s.length = passBytes d c w h plainPass := by rw [hs, streamLen, livePasses_plain hw hh]; simp
  have hpass : reassemble d c 0 s w h =
      (unfilterPass s (w * bppOf d c) h (bppOf d c)).map (scatterRows d c w plainPass 0 · (zeros (rasterBytes d c w h))) := by
    rw [reassemble, livePasses_plain hw hh, reassemblePasses, hrb, plainPass_height, ← hlen, List.take_length]
    cases unfilterPass s (w * bppOf d c) h (bppOf d c) <;> rfl
  rw [hpass]
  cases hlines : unfilterPass s (w * bppOf d c) h (bppOf d c) with
  | error f => rfl
  | ok lines =>
    obtain ⟨hcount, hsize⟩ := unfilterPass_lines (by rw [hs, streamLen_plain hd hw hh]) hlines
    have hsize' : ∀ l ∈ lines, l.length = passRowBytes d c (plainPass.width w) := by rwa [hrb]
    have hstr : plainPass.Strided := ⟨Nat.one_pos, Nat.one_pos⟩
    have hrows : 0 + lines.length ≤ plainPass.height h := by rw [plainPass_height]; omega
    have hraster : (zeros (rasterBytes d c w h)).length = w * h * pixBytes d c := length_zeros _
    refine congrArg Except.ok (raster_ext (length_scatterRows hd' hstr hraster hrows hsize') ?_ fun X hX Y hY j hj => ?_)
    · rw [length_flatten_const hsize, hcount, pixBytes_of_whole hd]
      ring
    · have hrow : Y < lines.length := by omega
      rw [(pixelByte_scatterRows hd' hstr hraster hrows hsize' hX hj).1 Y X hrow (by rwa [plainPass_width]) (by simp [plainPass])
        (by simp [plainPass]), rasterRow, if_neg (not_lt_eight hd), ← lineByte_eq_getElem hrow, pixelByte,
        ← getD_flatten hsize hrow (by rw [← pixBytes_of_whole hd]; exact block_lt hX hj), pixBytes_of_whole hd]
      congr 1
      ring

end

/-- Settles O31: the checks read the same ranges, and the raster is the lines laid end to end. -/
theorem plainDeintEqualsUnfilt : Obligations.PlainDeintEqualsUnfilt := by
  unfold Obligations.PlainDeintEqualsUnfilt
  intro s depth channels src w h dst bpp hd hc hw hh hrow
  have hbpp : 1 ≤ bpp ∧ bpp ≤ 8 := ⟨one_le_bppOf (mem_image_depths hd) hc.1, ?le⟩
  case le =>
    have htwo : divCeil depth.toNat 8 ≤ 2 := by
      simp only [List.mem_cons, List.not_mem_nil, or_false] at hd
      rcases hd with h8 | h16
      · rw [h8]; decide
      · rw [h16]; decide
    calc bpp ≤ 2 * 4 := Nat.mul_le_mul htwo hc.2
      _ = 8 := rfl
  have hbppByte : (BitVec.ofNat 8 bpp).toNat = bpp := by rw [BitVec.toNat_ofNat]; omega
  have hrb : (BitVec.ofNat 32 (w.toNat * bpp)).toNat = w.toNat * bpp := by rw [BitVec.toNat_ofNat, Nat.mod_eq_of_lt hrow]
  have hstream : streamLen depth.toNat channels.toNat (0 : Byte).toNat w.toNat h.toNat = h.toNat * (w.toNat * bpp + 1) :=
    streamLen_plain hd hw hh
  have hraster : rasterBytes depth.toNat channels.toNat w.toNat h.toNat = h.toNat * (w.toNat * bpp) := by
    rw [rasterBytes, pixBytes_of_whole hd]
    ring
  have hranges : deintRanges depth channels 0 src w h dst = unfiltRanges src (BitVec.ofNat 32 (w.toNat * bpp)) h dst := by
    rw [deintRanges, unfiltRanges, hstream, hraster, hrb]
  have hcheck : deintCheck depth channels 0 src w h dst s =
      unfiltCheck (BitVec.ofNat 8 bpp) src (BitVec.ofNat 32 (w.toNat * bpp)) h dst s := by
    have hdepth : checkImageDepth depth = none := if_pos (by simpa using mem_image_depths hd)
    have hchannels : checkChannels channels = none := if_pos (by simpa using hc)
    have hil : checkInterlace 0 = none := rfl
    have hsize : checkSize w h = none := if_pos (by simpa using ⟨hw, hh⟩)
    have hdist : checkBpp (BitVec.ofNat 8 bpp) = none := if_pos (by rw [hbppByte]; simpa using hbpp)
    rw [deintCheck, unfiltCheck, hdepth, hchannels, hil, hsize, hdist, hranges]
    rfl
  show execDeint depth channels 0 src w h dst s = execUnfilt _ _ _ _ _ s
  rw [execDeint, execUnfilt, hcheck]
  cases unfiltCheck (BitVec.ofNat 8 bpp) src (BitVec.ofNat 32 (w.toNat * bpp)) h dst s with
  | some f => rfl
  | none =>
    have hresult : reassemble depth.toNat channels.toNat (0 : Byte).toNat (s.mem.read src.toNat (h.toNat * (w.toNat * bpp + 1)))
        w.toNat h.toNat = _ := reassemble_plain hd hw hh ((s.mem.length_read _ _).trans hstream.symm)
    simp only [hstream, hraster, hrb, hbppByte, hresult]
    cases unfilterPass (s.mem.read src.toNat (h.toNat * (w.toNat * bpp + 1))) (w.toNat * bpp) h.toNat bpp <;> rfl

/-! ### SWAP16 (R199) -/

/-- R199: the bytes of sample `i`, exchanged or not. -/
theorem getD_swapSamples (hle : Bool) {s : List Byte} {i : Nat} (hi : 2 * i + 1 < s.length) :
    (swapSamples hle s).getD (2 * i) 0 = s.getD (2 * i + if hle then 1 else 0) 0 ∧
    (swapSamples hle s).getD (2 * i + 1) 0 = s.getD (2 * i + if hle then 0 else 1) 0 := by
  induction s using swapSamples.induct generalizing i with
  | case1 b0 b1 bs ih =>
    cases i with
    | zero => cases hle <;> exact ⟨rfl, rfl⟩
    | succ i =>
      obtain ⟨hfirst, hsecond⟩ := ih (i := i) (by simp only [List.length_cons] at hi; omega)
      cases hle <;> exact ⟨hfirst, hsecond⟩
  | case2 bs hbs =>
    match bs, hbs with
    | [], _ => simp at hi
    | [b], _ => simp at hi
    | b0 :: b1 :: bs, hbs => exact absurd rfl (hbs b0 b1 bs)

/-- Settles O32: sample by sample. -/
theorem swap16SwapsOrCopies : Obligations.Swap16SwapsOrCopies := by
  unfold Obligations.Swap16SwapsOrCopies
  intro s src n dst hready
  obtain ⟨m, hexec, hbytes, hsame⟩ := (execSwap16_answers src n dst s).completes (swap16Check_eq_none.mpr hready) (by simp)
  refine ⟨m, hexec, fun i hi => ?_, hsame⟩
  have hread : ∀ b : Bool, (s.mem.read src.toNat (2 * n.toNat)).getD (2 * i + if b then 1 else 0) 0 =
      s.mem.byte (src.toNat + 2 * i + if b then 1 else 0) := fun b => by
    rw [getD_read _ _ (by split <;> omega), Nat.add_assoc]
  obtain ⟨hfirst, hsecond⟩ := getD_swapSamples s.cfg.hle (s := s.mem.read src.toNat (2 * n.toNat)) (i := i) (by simp; omega)
  rw [hbytes _ (by omega), Nat.add_assoc dst.toNat, hbytes _ (by omega), hfirst, hsecond]
  have hflip : (if s.cfg.hle then 0 else 1) = if !s.cfg.hle then 1 else 0 := by cases s.cfg.hle <;> rfl
  rw [hflip]
  exact ⟨hread _, hread _⟩

end Sys2Proof.Machine
end

section
/-!
PROOFS about INTL and the round trip (43_interlace.md rules R195, R197, R200). When every sample fits, the stream is the rows of the
passes laid end to end (`decompose_of_fits`), so what stands where is known; the round trip is then the filter unit's, pass by pass,
and the bit-depth unit's, row by row.
-/

namespace Sys2Proof.Machine

open Sys2Proof.Claims

/-! ### Rows that succeed, and the first that does not -/

section
variable {α : Type} {f : α → Except Raise (List Byte)}

theorem joinRows_eq_flatMap {g : α → List Byte} {as : List α} (hf : ∀ a ∈ as, f a = .ok (g a)) :
    joinRows f as = .ok (as.flatMap g) := by
  induction as with
  | nil => rfl
  | cons a as ih => simp only [joinRows, hf a (by simp), ih fun b hb => hf b (by simp [hb]), List.flatMap_cons]

/-- The first failure is the answer. -/
theorem joinRows_first_error {as : List α} {k : Nat} {e : Raise} (hk : k < as.length)
    (hok : ∀ i, (hi : i < as.length) → i < k → ∃ bs, f as[i] = .ok bs) (herr : f as[k] = .error e) : joinRows f as = .error e := by
  induction as generalizing k with
  | nil => simp at hk
  | cons a as ih =>
    rw [joinRows]
    cases k with
    | zero => rw [List.getElem_cons_zero] at herr; rw [herr]
    | succ k =>
      obtain ⟨bs, hbs⟩ := hok 0 (by simp) (by omega)
      rw [List.getElem_cons_zero] at hbs
      rw [hbs]
      simp only [ih (by simpa using hk) (fun i hi hik => hok (i + 1) (by simpa using hi) (by omega)) herr]

end

/-! ### The rows of a pass in the stream (R195) -/

/-- R195: the bytes of a pass row after its tag. -/
def packedRow (d c w : Nat) (raster : List Byte) (p : Pass) (row : Nat) : List Byte :=
  let q := gatherRow p w (pixBytes d c) (p.width w) row raster
  if d < 8 then packRow q d (p.width w * c) else q

/-- R195: the rows of a pass. -/
def passStream (d c w h : Nat) (raster : List Byte) (p : Pass) : List Byte :=
  (List.range (p.height h)).flatMap fun row => FilterKind.tag .none :: packedRow d c w raster p row

/-- R197: the samples of a pass row fit. -/
def RowFits (d c w : Nat) (raster : List Byte) (p : Pass) (row : Nat) : Prop :=
  ∀ col < p.width w, ∀ j < pixBytes d c,
    (pixelByte raster w (pixBytes d c) (p.xo + col * p.xs) (p.yo + row * p.ys) j).toNat < 2 ^ d

section
variable {d c w h row : Nat} {p : Pass} {raster : List Byte} (hp : p.Strided) (hr : raster.length = w * h * pixBytes d c)
  (hrow : row < p.height h)
include hp hr hrow

/-- R195: byte `n` of a gathered row is byte `n mod pix` of pixel `n / pix` of the pass row. -/
theorem getD_gatherRow {n : Nat} (hn : n < p.width w * pixBytes d c) :
    (gatherRow p w (pixBytes d c) (p.width w) row raster).getD n 0 =
      pixelByte raster w (pixBytes d c) (p.xo + n / pixBytes d c * p.xs) (p.yo + row * p.ys) (n % pixBytes d c) := by
  have hpos : 0 < pixBytes d c := Nat.pos_of_ne_zero fun h0 => by rw [h0] at hn; omega
  rw [← (gatherRow_spec hp hr hrow).2 _ (Nat.div_lt_of_lt_mul (by rwa [Nat.mul_comm (pixBytes d c)])) _ (Nat.mod_lt _ hpos),
    Nat.div_add_mod']

theorem gatherRow_fits (hfit : RowFits d c w raster p row) :
    ∀ v ∈ gatherRow p w (pixBytes d c) (p.width w) row raster, v.toNat < 2 ^ d := by
  intro v hv
  obtain ⟨n, hn, rfl⟩ := List.mem_iff_getElem.mp hv
  have hlen := (gatherRow_spec hp hr hrow).1
  have hn' : n < p.width w * pixBytes d c := hlen ▸ hn
  have hpos : 0 < pixBytes d c := Nat.pos_of_ne_zero fun h0 => by rw [h0] at hn'; omega
  rw [← List.getD_eq_getElem _ 0 hn, getD_gatherRow hp hr hrow hn']
  exact hfit _ (Nat.div_lt_of_lt_mul (by rwa [Nat.mul_comm (pixBytes d c)])) _ (Nat.mod_lt _ hpos)

/-- R197: a row whose samples fit stands in the stream behind tag 0. -/
theorem streamRow_of_fits (hfit : d < 8 → RowFits d c w raster p row) :
    streamRow d c w raster p row = .ok (FilterKind.tag .none :: packedRow d c w raster p row) := by
  unfold streamRow packedRow
  dsimp only
  split
  · next h8 => rw [firstWide_eq_none (gatherRow_fits hp hr hrow (hfit h8))]
  · rfl

/-- R197: the first sample of a row that does not fit is the fault, with its offset in the raster. -/
theorem streamRow_first_wide (h8 : d < 8) {col j : Nat} (hcol : col < p.width w) (hj : j < pixBytes d c)
    (hfit : ∀ col' < p.width w, ∀ j' < pixBytes d c, col' < col ∨ (col' = col ∧ j' < j) →
      (pixelByte raster w (pixBytes d c) (p.xo + col' * p.xs) (p.yo + row * p.ys) j').toNat < 2 ^ d)
    (hwide : 2 ^ d ≤ (pixelByte raster w (pixBytes d c) (p.xo + col * p.xs) (p.yo + row * p.ys) j).toNat) :
    streamRow d c w raster p row =
      .error (raiseSampleRange (pixelByte raster w (pixBytes d c) (p.xo + col * p.xs) (p.yo + row * p.ys) j)
        ((pixelOffset p w (pixBytes d c) row col + j) % 2 ^ 32) d) := by
  obtain ⟨hlen, hbytes⟩ := gatherRow_spec hp hr hrow
  have hin : col * pixBytes d c + j < p.width w * pixBytes d c := block_lt hcol hj
  have hpos : 0 < pixBytes d c := Nat.zero_lt_of_lt hj
  rw [← hbytes col hcol j hj] at hwide ⊢
  have hfirst := firstWide_eq_some (i := 0) (hlen ▸ hin) (fun n hn => ?_) hwide
  case refine_1 =>
    rw [getD_gatherRow hp hr hrow (hn.trans hin)]
    have hn' : n / pixBytes d c < p.width w := Nat.div_lt_of_lt_mul (by rw [Nat.mul_comm (pixBytes d c)]; exact hn.trans hin)
    refine hfit _ hn' _ (Nat.mod_lt _ hpos) ?_
    have hsplit := Nat.div_add_mod' n (pixBytes d c)
    rcases Nat.lt_or_ge (n / pixBytes d c) col with hlt | hge
    · exact .inl hlt
    · have hmul : col * pixBytes d c ≤ n / pixBytes d c * pixBytes d c := Nat.mul_le_mul_right _ hge
      have hle : n / pixBytes d c ≤ col := Nat.le_of_lt_succ (Nat.div_lt_of_lt_mul (by rw [Nat.mul_comm, Nat.succ_mul]; omega))
      exact .inr ⟨le_antisymm hle hge, by omega⟩
  obtain ⟨hdiv, hmod⟩ := block_inj (Nat.mod_lt _ hpos) hj (Nat.div_add_mod' (col * pixBytes d c + j) (pixBytes d c))
  simp only [streamRow, if_pos h8, hfirst, Nat.zero_add, gatherOffset, hdiv, hmod]

/-- R141, R195: the lanes of a packed row hold the gathered row, and the unused ones are clear. -/
theorem lane_packedRow (hd : d ∈ [1, 2, 4, 8, 16]) (h8 : d < 8) (hfit : RowFits d c w raster p row) {i : Nat}
    (hi : i * d / 8 < passRowBytes d c (p.width w)) :
    lane ((packedRow d c w raster p row).getD (i * d / 8) 0) d i =
      if i < p.width w * c then ((gatherRow p w (pixBytes d c) (p.width w) row raster).getD i 0).toNat else 0 := by
  rw [packedRow, if_pos h8]
  exact lane_packRow (mem_packed_depths hd h8) (gatherRow_fits hp hr hrow hfit) hi

theorem length_packedRow (hd : d ∈ [1, 2, 4, 8, 16]) :
    (packedRow d c w raster p row).length = passRowBytes d c (p.width w) := by
  unfold packedRow
  dsimp only
  split
  · exact length_packRow _ _ _
  · next h8 => rw [(gatherRow_spec hp hr hrow).1, passRowBytes_of_not_lt hd h8]

/-- R195: a packed row, unpacked, is the gathered row. -/
theorem rasterRow_packedRow (hd : d ∈ [1, 2, 4, 8, 16]) (hfit : d < 8 → RowFits d c w raster p row) :
    rasterRow d c (p.width w) (packedRow d c w raster p row) = gatherRow p w (pixBytes d c) (p.width w) row raster := by
  unfold rasterRow packedRow
  dsimp only
  split
  · next h8 =>
    refine unpackRow_packRow (mem_packed_depths hd h8) (gatherRow_fits hp hr hrow (hfit h8)) ?_
    rw [(gatherRow_spec hp hr hrow).1, pixBytes_of_lt h8]
  · rfl

end

section
variable {d c w h : Nat} {p : Pass} {raster : List Byte} (hd : d ∈ [1, 2, 4, 8, 16]) (hp : p.Strided)
  (hr : raster.length = w * h * pixBytes d c)
include hd hp hr

theorem length_taggedRow {row : Nat} (hrow : row < p.height h) :
    (FilterKind.tag .none :: packedRow d c w raster p row).length = 1 + passRowBytes d c (p.width w) := by
  rw [List.length_cons, length_packedRow hp hr hrow hd, Nat.add_comm]

theorem length_passStream : (passStream d c w h raster p).length = passBytes d c w h p := by
  rw [passStream, length_flatMap_const _ _ _ fun row hrow => length_taggedRow hd hp hr (List.mem_range.mp hrow),
    List.length_range, passBytes]

/-- R176, R195: unfiltering the stretch of a pass gives its packed rows. -/
theorem unfilterPass_passStream (hc : 1 ≤ c) :
    unfilterPass (passStream d c w h raster p) (passRowBytes d c (p.width w)) (p.height h) (bppOf d c) =
      .ok ((List.range (p.height h)).map (packedRow d c w raster p)) := by
  have hplain : ∀ o prev, filterLine .none o prev (bppOf d c) = o := fun o prev => eq_of_getD (by simp) fun i hi => by
    rw [length_filterLine] at hi
    rw [filterLine, getD_range_map _ hi]
    exact BitVec.sub_zero _
  have hstream : passStream d c w h raster p =
      filterPass .none ((List.range (p.height h)).map (packedRow d c w raster p)) (passRowBytes d c (p.width w)) (bppOf d c) := by
    rw [filterPass, filterRows_eq_flatMap, passStream, List.length_map, List.length_range]
    refine List.flatMap_congr fun row hrow => ?_
    rw [hplain]
    simp [List.getD_eq_getElem?_getD, List.mem_range.mp hrow]
  have hround := unfilterRows_filterRows (k := .none) (r := 0) (prev := zeros (passRowBytes d c (p.width w)))
    (one_le_bppOf hd hc) (lines := (List.range (p.height h)).map (packedRow d c w raster p)) (rb := passRowBytes d c (p.width w))
    fun l hl => by
      obtain ⟨row, hrow, rfl⟩ := List.mem_map.mp hl
      exact length_packedRow hp hr (List.mem_range.mp hrow) hd
  rw [List.length_map, List.length_range] at hround
  rw [hstream]
  exact hround

end

/-! ### The stream of an image whose samples fit (R195) -/

/-- A stretch of passes laid end to end is its pass. -/
theorem slice_flatMap_stretch {d c w h : Nat} {F : Pass → List Byte} {ps : List Pass}
    (hF : ∀ p ∈ ps, (F p).length = passBytes d c w h p) {k : Nat} (hk : k < ps.length) :
    slice (ps.flatMap F) (stretchStart d c w h ps k) (passBytes d c w h ps[k]) = F ps[k] := by
  induction ps generalizing k with
  | nil => simp at hk
  | cons p ps ih =>
    have hlen := hF p (by simp)
    rw [List.flatMap_cons, slice]
    cases k with
    | zero => rw [stretchStart_zero, List.drop_zero, List.getElem_cons_zero, List.take_left' hlen]
    | succ k =>
      rw [stretchStart_succ, ← List.drop_drop, List.drop_left' hlen, List.getElem_cons_succ]
      exact ih (fun q hq => hF q (by simp [hq])) (by simpa using hk)

section
variable {d c il w h : Nat} {raster : List Byte} (hr : raster.length = w * h * pixBytes d c)
include hr

theorem decompose_of_fits (hfit : d < 8 → ∀ p ∈ livePasses il w h, ∀ row < p.height h, RowFits d c w raster p row) :
    decompose d c il raster w h = .ok ((livePasses il w h).flatMap (passStream d c w h raster)) :=
  joinRows_eq_flatMap fun p hp => joinRows_eq_flatMap fun row hrow =>
    streamRow_of_fits (strided_of_mem_livePasses hp) hr (List.mem_range.mp hrow) fun h8 => hfit h8 p hp row (List.mem_range.mp hrow)

/-- R193, R195: byte `x` of row `row` of pass number `k` in the stream. -/
theorem getD_stream (hd : d ∈ [1, 2, 4, 8, 16]) {k row x : Nat} (hk : k < (livePasses il w h).length)
    (hrow : row < (livePasses il w h)[k].height h) (hx : x < 1 + passRowBytes d c ((livePasses il w h)[k].width w)) :
    ((livePasses il w h).flatMap (passStream d c w h raster)).getD
        (rowAddr d c w (passStart d c il w h k) row (livePasses il w h)[k] + x) 0 =
      (FilterKind.tag .none :: packedRow d c w raster (livePasses il w h)[k] row).getD x 0 := by
  have hp := strided_of_mem_livePasses (List.getElem_mem hk)
  rw [rowAddr, Nat.add_assoc, ← getD_slice _ _ _ _ (pass_row_lt hrow hx),
    show slice _ (passStart d c il w h k) _ = _ from
      slice_flatMap_stretch (fun p hp => length_passStream hd (strided_of_mem_livePasses hp) hr) hk]
  exact getD_flatMap_range (fun row hrow => length_taggedRow hd hp hr hrow) hrow hx

end

/-! ### The round trip (R200) -/

theorem rowFits_of_fits {d c il w h row : Nat} {raster : List Byte}
    (hfit : ∀ n < w * h * pixBytes d c, (raster.getD n 0).toNat < 2 ^ d) {p : Pass} (hp : p ∈ livePasses il w h)
    (hrow : row < p.height h) : RowFits d c w raster p row := by
  intro col hcol j hj
  have hstr := strided_of_mem_livePasses hp
  have := pixel_le (pix := pixBytes d c) ((Pass.lt_width hstr).mp hcol) ((Pass.lt_height hstr).mp hrow)
  exact hfit _ (by omega)

/-- R200 (a): reassembling the stream of a raster gives the raster back. -/
theorem reassemble_stream {d c il w h : Nat} {raster : List Byte} (hd : d ∈ [1, 2, 4, 8, 16]) (hc : 1 ≤ c)
    (hr : raster.length = w * h * pixBytes d c)
    (hfit : d < 8 → ∀ p ∈ livePasses il w h, ∀ row < p.height h, RowFits d c w raster p row) {stream : List Byte}
    (hstream : stream = (livePasses il w h).flatMap (passStream d c w h raster)) (hlen : stream.length = streamLen d c il w h) :
    reassemble d c il stream w h = .ok raster := by
  obtain ⟨out, hout⟩ : ∃ out, reassemble d c il stream w h = .ok out :=
    reassemblePasses_of_legal_tags fun k hk row hrow => by
      have htag := getD_stream hr hd hk hrow (x := 0) (by omega)
      rw [← hstream] at htag
      exact (congrArg BitVec.toNat htag).trans_le (FilterKind.toNat_tag_le .none)
  obtain ⟨houtlen, hpasses, -⟩ := reassemblePasses_ok hd (fun _ => strided_of_mem_livePasses) (livePasses_disjoint il w h) hlen
    (length_zeros _) hout
  rw [hout]
  refine congrArg _ (raster_ext houtlen hr fun X hX Y hY j hj => ?_)
  obtain ⟨p, hp, row, hrow, col, hcol, rfl, rfl⟩ := exists_livePass il hX hY
  have hstr := strided_of_mem_livePasses hp
  obtain ⟨k, hk, rfl⟩ := List.mem_iff_getElem.mp hp
  obtain ⟨lines, hlines, hfits, hpixels⟩ := hpasses k hk
  rw [hstream, slice_flatMap_stretch (fun p hp => length_passStream hd (strided_of_mem_livePasses hp) hr) hk,
    unfilterPass_passStream hd hstr hr hc] at hlines
  cases hlines
  rw [hpixels row col (by simpa using hrow) hcol j hj, List.getElem_map, List.getElem_range,
    rasterRow_packedRow hstr hr hrow hd fun h8 => hfit h8 _ hp row hrow]
  exact (gatherRow_spec hstr hr hrow).2 col hcol j hj

/-- Settles O30: every sample of every pass row is a byte of the raster, so it fits; then the stream is the passes laid end to end. -/
theorem reassembleInvertsDecompose : Obligations.ReassembleInvertsDecompose := by
  unfold Obligations.ReassembleInvertsDecompose
  intro d c il w h raster hd hc _ _ _ hr hfit
  have hrows : d < 8 → ∀ p ∈ livePasses il w h, ∀ row < p.height h, RowFits d c w raster p row := fun h8 p hp row hrow =>
    rowFits_of_fits (fun n hn => by
      rw [List.getD_eq_getElem _ _ (hr ▸ hn)]
      exact hfit h8 _ (List.getElem_mem _)) hp hrow
  have hstream := decompose_of_fits hr hrows
  have hlen := length_decompose hd hr hstream
  exact ⟨_, hstream, hlen, reassemble_stream hd hc.1 hr hrows rfl hlen⟩

/-! ### INTL (R197) -/

/-- Settles O28: a row of the stream is tag 0 and the packed row, and a packed row is its lanes. -/
theorem intlDecomposesEveryPass : Obligations.IntlDecomposesEveryPass := by
  unfold Obligations.IntlDecomposesEveryPass
  intro s depth channels il src w h dst srclen d c W live len start himage hsrclen hready hfit
  have hd : d ∈ [1, 2, 4, 8, 16] := himage.1
  set raster := s.mem.read src.toNat (rasterBytes d c W h.toNat) with hraster
  have hr : raster.length = W * h.toNat * pixBytes d c := s.mem.length_read _ _
  have hread : ∀ n < W * h.toNat * pixBytes d c, raster.getD n 0 = s.mem.byte (src.toNat + n) := fun n hn => getD_read _ _ hn
  have hrows : d < 8 → ∀ p ∈ live, ∀ row < p.height h.toNat, RowFits d c W raster p row := fun h8 p hp row hrow =>
    rowFits_of_fits (fun n hn => by rw [hread n hn]; exact hfit h8 n hn) hp hrow
  have hstream := decompose_of_fits hr hrows
  obtain ⟨m, hexec, hbytes, hsame⟩ := (execIntl_answers depth channels il src w h dst srclen s).completes_of_ok
    (intlCheck_eq_none.mpr ⟨himage, hsrclen, hready⟩) hstream (length_decompose hd hr hstream)
  refine ⟨m, hexec, fun k hk => ?_, hsame⟩
  intro p row hrow a
  have hp : p.Strided := strided_of_mem_livePasses (List.getElem_mem hk)
  have hbyte : ∀ x < 1 + passRowBytes d c (p.width W),
      m.byte (a + x) = (FilterKind.tag .none :: packedRow d c W raster p row).getD x 0 := by
    intro x hx
    have hin : rowAddr d c W (passStart d c il.toNat W h.toNat k) row p + x < len := by
      have hstretch : passStart d c il.toNat W h.toNat k + passBytes d c W h.toNat p ≤ len := stretch_le hk
      have hrowin := pass_row_lt hrow hx
      rw [rowAddr]
      omega
    rw [← getD_stream hr hd hk hrow hx, ← hbytes _ hin]
    simp only [a, start, rowAddr, Nat.add_assoc]
  have hbody : ∀ x < passRowBytes d c (p.width W), m.byte (a + 1 + x) = (packedRow d c W raster p row).getD x 0 := fun x hx => by
    rw [Nat.add_assoc, Nat.add_comm 1, hbyte (x + 1) (by omega), List.getD_cons_succ]
  have hsample : ∀ col < p.width W, ∀ j < pixBytes d c,
      (gatherRow p W (pixBytes d c) (p.width W) row raster).getD (col * pixBytes d c + j) 0 =
        s.mem.byte (src.toNat + pixelOffset p W (pixBytes d c) row col + j) := by
    intro col hcol j hj
    have hin := pixel_le (pix := pixBytes d c) ((Pass.lt_width hp).mp hcol) ((Pass.lt_height hp).mp hrow)
    rw [(gatherRow_spec hp hr hrow).2 col hcol j hj, pixelByte, hread _ (by omega), Nat.add_assoc]
    rfl
  refine ⟨hbyte 0 (by omega), fun col hcol j hj => ?_, fun h8 i hin hi => ?_⟩
  · dsimp only
    split
    · next h8 =>
      have hj' : j < c := pixBytes_of_lt h8 c ▸ hj
      have hlane := block_lt hcol hj'
      have hi : (col * c + j) * d / 8 < passRowBytes d c (p.width W) := lane_index_lt (mem_packed_depths hd h8) hlane
      rw [hbody _ hi, lane_packedRow hp hr hrow hd h8 (hrows h8 p (List.getElem_mem hk) row hrow) hi, if_pos hlane,
        ← hsample col hcol j hj, pixBytes_of_lt h8]
    · next h8 =>
      have hi : col * pixBytes d c + j < passRowBytes d c (p.width W) := by
        rw [passRowBytes_of_not_lt hd h8]
        exact block_lt hcol hj
      rw [Nat.add_assoc, hbody _ hi, ← hsample col hcol j hj, packedRow, if_neg h8]
  · rw [hbody _ hi, lane_packedRow hp hr hrow hd h8 (hrows h8 p (List.getElem_mem hk) row hrow) hi, if_neg (by omega)]

/-- Settles O29: the rows before the sample's succeed, and in its own row it is the first that does not fit. -/
theorem intlRefusesTheFirstWideSample : Obligations.IntlRefusesTheFirstWideSample := by
  unfold Obligations.IntlRefusesTheFirstWideSample
  intro s depth channels il src w h dst srclen k row col j d W pix len live offset sample himage hsrclen hready h8 hk hrow hcol hj
    hfit hwide
  set raster := s.mem.read src.toNat (rasterBytes d channels.toNat W h.toNat) with hraster
  have hr : raster.length = W * h.toNat * pix := s.mem.length_read _ _
  have hpixel : ∀ k', (hk' : k' < live.length) → ∀ row' < live[k'].height h.toNat, ∀ col' < live[k'].width W, ∀ j' < pix,
      (pixelByte raster W pix (live[k'].xo + col' * live[k'].xs) (live[k'].yo + row' * live[k'].ys) j').toNat =
        sample live[k'] row' col' j' := by
    intro k' hk' row' hrow' col' hcol' j' hj'
    have hp := strided_of_mem_livePasses (List.getElem_mem hk')
    have hin := pixel_le (pix := pix) ((Pass.lt_width hp).mp hcol') ((Pass.lt_height hp).mp hrow')
    exact congrArg BitVec.toNat (getD_read _ _ (show _ < W * h.toNat * pix by omega))
  have hp := strided_of_mem_livePasses (List.getElem_mem hk)
  have hearlier : ∀ k', (hk' : k' < live.length) → ∀ row' < live[k'].height h.toNat, k' < k ∨ (k' = k ∧ row' < row) →
      RowFits d channels.toNat W raster live[k'] row' := by
    intro k' hk' row' hrow' hbefore col' hcol' j' hj'
    rw [hpixel k' hk' row' hrow' col' hcol' j' hj']
    exact hfit k' hk' row' hrow' col' hcol' j' hj' (by omega)
  have hfirst : streamRow d channels.toNat W raster live[k] row =
      .error (raiseSampleRange (s.mem.byte (src.toNat + offset live[k] row col j)) (offset live[k] row col j % 2 ^ 32) d) := by
    have hwide' : 2 ^ d ≤ _ := hwide.trans_eq (hpixel k hk row hrow col hcol j hj).symm
    have hbyte := getD_read s.mem src.toNat (show offset live[k] row col j < rasterBytes d channels.toNat W h.toNat from
      (Nat.add_lt_add_left hj _).trans_le (pixel_le ((Pass.lt_width hp).mp hcol) ((Pass.lt_height hp).mp hrow)))
    rw [← hbyte]
    refine streamRow_first_wide hp hr hrow h8 hcol hj (fun col' hcol' j' hj' hbefore => ?_) hwide'
    rw [hpixel k hk row hrow col' hcol' j' hj']
    exact hfit k hk row hrow col' hcol' j' hj' (.inr ⟨rfl, .inr ⟨rfl, hbefore⟩⟩)
  have hfault : decompose d channels.toNat il.toNat raster W h.toNat =
      .error (raiseSampleRange (s.mem.byte (src.toNat + offset live[k] row col j)) (offset live[k] row col j % 2 ^ 32) d) := by
    refine joinRows_first_error hk (fun k' hk' hlt => ?_) (joinRows_first_error (by simpa using hrow) (fun row' hrow' hlt => ?_)
      (by rw [List.getElem_range]; exact hfirst))
    · exact ⟨_, joinRows_eq_flatMap fun row' hrow' => streamRow_of_fits (strided_of_mem_livePasses (List.getElem_mem hk')) hr
        (List.mem_range.mp hrow') fun _ => hearlier k' hk' row' (List.mem_range.mp hrow') (.inl hlt)⟩
    · rw [List.length_range] at hrow'
      rw [List.getElem_range]
      exact ⟨_, streamRow_of_fits hp hr hrow' fun _ => hearlier k hk row' hrow' (.inr ⟨rfl, hlt⟩)⟩
  exact (execIntl_answers depth channels il src w h dst srclen s).fault_of_error
    (intlCheck_eq_none.mpr ⟨himage, hsrclen, hready⟩) hfault

end Sys2Proof.Machine
end

section
/-!
PROOFS about the palette unit (44_palette.md rules R220 to R225). PALX is row-major, so pixel `(x, y)` is index `y · W + x` of the image's
indices (`toNat_getD_imageIndices`), and `expandIndices` takes the indices one by one.
-/

namespace Sys2Proof.Machine

open Sys2Proof.Claims

/-! ### The look-up table (R220 to R223) -/

theorem getElem_lutOf (f : Nat → LutEntry) {i : Nat} (hi : i < 256) : (lutOf f)[i] = f i := by simp [lutOf]

theorem Palette.entry_eq_getElem (p : Palette) {i : Nat} (hi : i < 256) : p.entry i = p.lut[i] := by
  simp [Palette.entry, List.getD_eq_getElem?_getD, hi]

/-- Settles O33: entry by entry. -/
theorem palldLoadsEveryTriple : Obligations.PalldLoadsEveryTriple := by
  unfold Obligations.PalldLoadsEveryTriple
  intro s src bytelen hwhole hcount hfits
  obtain ⟨t, hexec, rfl⟩ := (execPalld_answers src bytelen s).exists_effect (palldCheck_eq_none.mpr ⟨hwhole, hcount, hfits⟩)
  refine ⟨_, s.freeDraws + 1, hexec, fun i hi hn => ?_⟩
  rw [getElem_lutOf _ hi, if_pos hn, bodyEntry]

/-- Settles O34: entry by entry. -/
theorem paltrGivesEveryEntryItsAlpha : Obligations.PaltrGivesEveryEntryItsAlpha := by
  unfold Obligations.PaltrGivesEveryEntryItsAlpha
  intro s src m hcount hfits
  obtain ⟨t, hexec, rfl⟩ := (execPaltr_answers src m s).exists_effect (paltrCheck_eq_none.mpr ⟨hcount, hfits⟩)
  refine ⟨_, hexec, fun i hi => ?_⟩
  rw [getElem_lutOf _ hi, Palette.entry_eq_getElem _ hi]

/-! ### The indices of an image (R224) -/

theorem toNat_getD_rowIndices {d : Nat} (hd : d ∈ [1, 2, 4, 8]) (row : List Byte) {w x : Nat} (hx : x < w) :
    ((rowIndices d w row).getD x 0).toNat = lane (row.getD (x * d / 8) 0) d x := by
  unfold rowIndices
  split
  · next h8 =>
    have hd' : d ∈ [1, 2, 4] := by
      simp only [List.mem_cons, List.not_mem_nil, or_false] at hd ⊢
      omega
    exact toNat_getD_unpackRow hd' row hx
  · obtain rfl : d = 8 := by simp at hd; omega
    rw [Nat.mul_div_cancel _ (by decide), lane, Nat.mul_mod_left]
    simp only [Nat.sub_self, Nat.pow_zero, Nat.div_one]
    exact (Nat.mod_eq_of_lt (BitVec.isLt _)).symm

/-- R224: a pixel's index stands in its row. -/
theorem index_lt {d w x : Nat} (hd : d ∈ [1, 2, 4, 8]) (hx : x < w) : x * d / 8 < indexRowBytes d w := by
  have hpos : 0 < d := Nat.pos_of_ne_zero (by rintro rfl; simp at hd)
  have hmul : x * d < w * d := Nat.mul_lt_mul_of_pos_right hx hpos
  rw [indexRowBytes, lt_divCeil (by decide)]
  omega

section
variable {d w h : Nat} (hd : d ∈ [1, 2, 4, 8]) (m : Memory) (a : Nat)
include hd

theorem length_imageIndices : (imageIndices d (m.read a (h * indexRowBytes d w)) w h).length = h * w := by
  rw [imageIndices, length_flatMap_const _ w _ fun y hy => length_imageRow hd (m.length_read _ _) (List.mem_range.mp hy),
    List.length_range]

/-- R224: the index of pixel `(x, y)`. -/
theorem toNat_getD_imageIndices {x y : Nat} (hx : x < w) (hy : y < h) :
    ((imageIndices d (m.read a (h * indexRowBytes d w)) w h).getD (y * w + x) 0).toNat =
      lane (m.byte (a + y * indexRowBytes d w + x * d / 8)) d x := by
  rw [imageIndices, getD_flatMap_range (fun y hy => length_imageRow hd (m.length_read _ _) hy) hy hx,
    toNat_getD_rowIndices hd _ hx, getD_slice _ _ _ _ (index_lt hd hx), getD_read _ _ (block_lt hy (index_lt hd hx)), Nat.add_assoc]

/-- R224: what holds of the first `n` pixels in row-major order holds of the first `n` indices. -/
theorem imageIndices_lt {n bound : Nat} (hn : n ≤ h * w)
    (hvalid : ∀ y < h, ∀ x < w, y * w + x < n → lane (m.byte (a + y * indexRowBytes d w + x * d / 8)) d x < bound) :
    ∀ k < n, ((imageIndices d (m.read a (h * indexRowBytes d w)) w h).getD k 0).toNat < bound := by
  intro k hk
  have hkn : k < h * w := hk.trans_le hn
  have hw : 0 < w := Nat.pos_of_ne_zero (by rintro rfl; simp at hkn)
  have hy : k / w < h := Nat.div_lt_of_lt_mul (by rwa [Nat.mul_comm])
  have hx := Nat.mod_lt k hw
  rw [← Nat.div_add_mod' k w] at hk ⊢
  rw [toNat_getD_imageIndices hd m a hx hy]
  exact hvalid _ hy _ hx hk

end

/-! ### Expansion (R224) -/

/-- R224: the bytes of a pixel of an index. -/
def indexBytes (p : Palette) (v : Byte) : List Byte := (p.entry v.toNat).bytes.take p.palc.toNat

theorem expandIndices_of_valid {p : Palette} {pixel : Nat} {idx : List Byte} (h : ∀ v ∈ idx, v.toNat < p.paln.toNat) :
    expandIndices p pixel idx = .ok (idx.map (indexBytes p)).flatten := by
  induction idx generalizing pixel with
  | nil => rfl
  | cons v idx ih =>
    rw [expandIndices, if_pos (h v (by simp)), ih fun u hu => h u (by simp [hu])]
    rfl

/-- R224: the first bad index is the fault. -/
theorem expandIndices_first_bad {p : Palette} {pixel i : Nat} {idx : List Byte} (hi : i < idx.length)
    (hvalid : ∀ k < i, (idx.getD k 0).toNat < p.paln.toNat) (hbad : p.paln.toNat ≤ (idx.getD i 0).toNat) :
    expandIndices p pixel idx = .error (raisePalIndex (idx.getD i 0) p.paln ((pixel + i) % 2 ^ 32)) := by
  induction idx generalizing pixel i with
  | nil => simp at hi
  | cons v idx ih =>
    rw [expandIndices]
    cases i with
    | zero => rw [if_neg (by simpa using hbad)]; rfl
    | succ i =>
      rw [if_pos (by simpa using hvalid 0 (by omega)), ih (by simpa using hi) (fun k hk => by simpa using hvalid (k + 1) (by omega))
        (by simpa using hbad), List.getD_cons_succ, Nat.add_assoc, Nat.add_comm 1]

/-- R220: byte `j` of an entry, in the order red, green, blue, alpha. -/
theorem getD_bytes (e : LutEntry) {j : Nat} (hj : j < 4) :
    e.bytes.getD j 0 = if j = 0 then e.r else if j = 1 then e.g else if j = 2 then e.b else e.a := by
  rcases (show j = 0 ∨ j = 1 ∨ j = 2 ∨ j = 3 by omega) with rfl | rfl | rfl | rfl <;> rfl

/-- Settles O35: the pixel's bytes stand at its place, and they are those of the entry its index names. -/
theorem palxExpandsEveryPixel : Obligations.PalxExpandsEveryPixel := by
  unfold Obligations.PalxExpandsEveryPixel
  intro s depth src w h dst srclen d rbw palc index hinv hd hsize hpaln hsrclen hready hvalid
  set idx := imageIndices d (s.mem.read src.toNat (h.toNat * indexRowBytes d w.toNat)) w.toNat h.toNat with hidx
  have hlen : idx.length = h.toNat * w.toNat := length_imageIndices hd _ _
  have hindex : ∀ y < h.toNat, ∀ x < w.toNat, (idx.getD (y * w.toNat + x) 0).toNat = index x y := fun y hy x hx =>
    toNat_getD_imageIndices hd _ _ hx hy
  have hall : ∀ v ∈ idx, v.toNat < s.pal.paln.toNat := by
    intro v hv
    obtain ⟨n, hn, rfl⟩ := List.mem_iff_getElem.mp hv
    rw [← List.getD_eq_getElem _ 0 hn]
    exact imageIndices_lt hd s.mem src.toNat le_rfl (fun y hy x hx _ => hvalid y hy x hx) n (hlen ▸ hn)
  have hok : expand s.pal d (s.mem.read src.toNat srclen.toNat) w.toNat h.toNat = .ok (idx.map (indexBytes s.pal)).flatten := by
    rw [hsrclen]
    exact expandIndices_of_valid hall
  have hpalc : palc ≤ 4 := hinv.palc_le
  have hlength := length_expand hd (by rw [s.mem.length_read, hsrclen]; rfl) hpalc hok
  have hpaln' : s.pal.paln ≠ 0 := by rintro h0; rw [h0] at hpaln; simp at hpaln
  obtain ⟨m, hexec, hbytes, hsame⟩ := (execPalx_answers depth src w h dst srclen s).completes_of_ok
    (palxCheck_eq_none.mpr ⟨hd, hsize, hpaln', hsrclen, hready⟩) hok hlength
  refine ⟨m, hexec, fun y hy x hx j hj e he => ?_, hsame⟩
  have hpixel : y * w.toNat + x < h.toNat * w.toNat := block_lt hy hx
  have hsizes : ∀ l ∈ idx.map (indexBytes s.pal), l.length = palc := by
    intro l hl
    obtain ⟨v, -, rfl⟩ := List.mem_map.mp hl
    rw [indexBytes, List.length_take]
    exact Nat.min_eq_left hpalc
  have hentry : s.pal.entry (index x y) = e := by rw [Palette.entry, List.getD_eq_getElem?_getD, he]; rfl
  rw [Nat.add_assoc, hbytes _ (by rw [Nat.mul_comm w.toNat]; exact block_lt hpixel hj),
    getD_flatten hsizes (by rwa [List.length_map, hlen]) hj, lineByte_eq_getElem (by rwa [List.length_map, hlen]),
    List.getElem_map, ← List.getD_eq_getElem _ 0 (hlen ▸ hpixel), indexBytes, hindex y hy x hx, hentry, getD_take hj,
    getD_bytes _ (by omega)]

/-- Settles O36: the first bad index in row-major order is the fault. -/
theorem palxRefusesTheFirstBadIndex : Obligations.PalxRefusesTheFirstBadIndex := by
  unfold Obligations.PalxRefusesTheFirstBadIndex
  intro s depth src w h dst srclen x y d rbw n index hd hx hy hpaln hsrclen hready hvalid hbad
  set idx := imageIndices d (s.mem.read src.toNat (h.toNat * indexRowBytes d w.toNat)) w.toNat h.toNat with hidx
  have hlen : idx.length = h.toNat * w.toNat := length_imageIndices hd _ _
  have hindex : (idx.getD (y * w.toNat + x) 0).toNat = index x y := toNat_getD_imageIndices hd _ _ hx hy
  have hpaln' : s.pal.paln ≠ 0 := by rintro h0; rw [h0] at hpaln; simp at hpaln
  have hfault : expand s.pal d (s.mem.read src.toNat srclen.toNat) w.toNat h.toNat =
      .error (raisePalIndex (idx.getD (y * w.toNat + x) 0) s.pal.paln ((0 + (y * w.toNat + x)) % 2 ^ 32)) := by
    rw [hsrclen]
    exact expandIndices_first_bad (hlen.symm ▸ block_lt hy hx)
      (imageIndices_lt hd s.mem src.toNat (block_lt hy hx).le fun v hv u hu hbefore => hvalid v hv u hu hbefore)
      (hbad.trans_eq (hindex).symm)
  obtain ⟨m, k, hexec, hsame⟩ := (execPalx_answers depth src w h dst srclen s).fault_of_error
    (palxCheck_eq_none.mpr ⟨hd, ⟨by omega, by omega⟩, hpaln', hsrclen, hready⟩) hfault
  refine ⟨m, k, hexec.trans ?_, hsame⟩
  rw [Raise.report, raisePalIndex, hindex, Nat.zero_add]
  rfl

end Sys2Proof.Machine
end

section
/-!
PROOFS about the compositor's configuration and arithmetic (45_compositor.md rules R242, R245, R252): ACFG, OVER, and the samples of a
pixel.
-/

namespace Sys2Proof.Machine

open Sys2Proof.Claims

/-! ### ACFG (R242) -/

theorem setWidth_eq_ofNat (b : Byte) : b.setWidth 32 = BitVec.ofNat 32 b.toNat := by
  refine BitVec.eq_of_toNat_eq ?_
  simp

/-- Settles O37: the registers written are the model's. -/
theorem acfgConfiguresAndClears : Obligations.AcfgConfiguresAndClears := by
  unfold Obligations.AcfgConfiguresAndClears
  intro s channels ss canvas w h snap hchannels hss hsize
  obtain ⟨t, hexec, rfl⟩ := (execAcfg_answers channels ss canvas w h snap s).exists_effect
    (acfgCheck_eq_none.mpr ⟨hchannels, hss, hsize⟩)
  refine hexec.trans ?_
  rw [configured, setWidth_eq_ofNat, setWidth_eq_ofNat]
  rfl

/-! ### OVER (R252) -/

theorem overBlend_of_transparent {ss : Nat} (h : ss ≠ 0) (f bg : Nat) : overBlend ss f bg 0 = bg := by
  rw [overBlend, Nat.zero_mul, Nat.zero_add, Nat.sub_zero, Nat.mul_div_cancel_left bg (one_lt_sampleMax h).le]

/-- R253: the formula is an average, so it lies between the two samples. -/
theorem overBlend_between {ss : Nat} (h : ss ≠ 0) (f bg : Nat) {araw : Nat} (ha : araw ≤ sampleMax ss) :
    min f bg ≤ overBlend ss f bg araw ∧ overBlend ss f bg araw ≤ max f bg := by
  have hpos : 0 < sampleMax ss := Nat.zero_lt_of_lt (one_lt_sampleMax h)
  have hweights : ∀ v, sampleMax ss * v = araw * v + (sampleMax ss - araw) * v := fun v => by
    rw [← Nat.add_mul, Nat.add_sub_cancel' ha]
  refine ⟨(Nat.le_div_iff_mul_le hpos).mpr ?_, Nat.div_le_of_le_mul ?_⟩
  · rw [Nat.mul_comm, hweights]
    gcongr
    · exact min_le_left _ _
    · exact min_le_right _ _
  · rw [hweights]
    gcongr
    · exact le_max_left _ _
    · exact le_max_right _ _

section
variable {ss fg bg araw : Nat} (hss : ss ≠ 0) (hfg : fg ≤ sampleMax ss) (hbg : bg ≤ sampleMax ss) (ha : araw ≤ sampleMax ss)
  (inst : Config.OverInstance)
include hss ha

/-- R252 (b): a colour result lies between foreground and background. -/
theorem blendOver_colour_between :
    min fg bg ≤ blendOver inst ss false fg bg araw ∧ blendOver inst ss false fg bg araw ≤ max fg bg := by
  cases inst with
  | lit => exact overBlend_between hss fg bg ha
  | norm => exact overBlend_between hss fg bg ha
  | other n =>
    show min fg bg ≤ overOther n ss false fg bg araw ∧ overOther n ss false fg bg araw ≤ max fg bg
    rw [overOther, if_neg (by decide)]
    split_ifs
    · exact ⟨min_le_right _ _, le_max_right _ _⟩
    · exact ⟨min_le_left _ _, le_max_left _ _⟩
    · exact ⟨le_max_left _ _, max_le min_le_max (min_le_right _ _)⟩

include hbg

theorem blendOver_alpha_le : blendOver inst ss true fg bg araw ≤ sampleMax ss := by
  cases inst with
  | lit => exact (overBlend_between hss 1 bg ha).2.trans (max_le (one_lt_sampleMax hss).le hbg)
  | norm => exact (overBlend_between hss (sampleMax ss) bg ha).2.trans (max_le le_rfl hbg)
  | other n => exact min_le_right _ _

include hfg

/-- R252: the result is a sample. -/
theorem blendOver_le (isAlpha : Bool) : blendOver inst ss isAlpha fg bg araw ≤ sampleMax ss := by
  cases isAlpha with
  | true => exact blendOver_alpha_le hss hbg ha inst
  | false => exact (blendOver_colour_between hss ha inst).2.trans (max_le hfg hbg)

end

/-- Settles O40: the two formulas are averages, and a free OVER is confined to what the rule allows. -/
theorem everyOverIsAdmissible : Obligations.EveryOverIsAdmissible := by
  unfold Obligations.EveryOverIsAdmissible
  intro inst ss fg bg araw hss maxv hfg hbg ha
  have hne : ss ≠ 0 := by rintro rfl; simp at hss
  refine ⟨blendOver_le hne hfg hbg ha inst, ?transparent, ?full, blendOver_colour_between hne ha inst, fun _ _ => ?alpha⟩
  case transparent =>
    cases inst with
    | lit => exact overBlend_of_transparent hne fg bg
    | norm => exact overBlend_of_transparent hne fg bg
    | other n => rfl
  case full =>
    cases inst with
    | lit => exact overBlend_of_opaque hne fg bg
    | norm => exact overBlend_of_opaque hne fg bg
    | other n =>
      have hmax : sampleMax ss ≠ 0 := (Nat.zero_lt_of_lt (one_lt_sampleMax hne)).ne'
      show overOther n ss false fg bg (sampleMax ss) = fg
      rw [overOther, if_neg (by decide), if_neg hmax, if_pos rfl]
  case alpha => cases inst <;> rfl

/-! ### Samples (R245) -/

theorem sampleOf_one (hle : Bool) (f : Nat → Byte) (k : Nat) : sampleOf hle 1 f k = (f k).toNat := rfl

theorem sampleOf_two (hle : Bool) (f : Nat → Byte) (k : Nat) :
    sampleOf hle 2 f k = if hle then (f (2 * k + 1)).toNat * 256 + (f (2 * k)).toNat
      else (f (2 * k)).toNat * 256 + (f (2 * k + 1)).toNat := rfl

/-- R245: a sample read from memory is that of the pixel's bytes. -/
theorem sampleAt_eq_sampleOf (m : Memory) (hle : Bool) {ss : Nat} (hss : ss ∈ [1, 2]) (a k : Nat) :
    sampleAt m hle ss (a + k * ss) = sampleOf hle ss (fun j => m.byte (a + j)) k := by
  simp only [List.mem_cons, List.not_mem_nil, or_false] at hss
  rcases hss with rfl | rfl
  · cases hle <;> simp [sampleAt, sampleOf, nativeOrder, beNat, Memory.read]
  · cases hle <;> simp [sampleAt, sampleOf, nativeOrder, beNat, Memory.read, List.range_succ, Nat.mul_comm k, Nat.add_assoc]

/-- R245: only the bytes of the pixel matter. -/
theorem sampleOf_congr {hle : Bool} {ss n k : Nat} {f g : Nat → Byte} (hss : ss ∈ [1, 2]) (hk : k < n)
    (h : ∀ j < n * ss, f j = g j) : sampleOf hle ss f k = sampleOf hle ss g k := by
  simp only [List.mem_cons, List.not_mem_nil, or_false] at hss
  rcases hss with rfl | rfl
  · rw [sampleOf_one, sampleOf_one, h k (by omega)]
  · rw [sampleOf_two, sampleOf_two, h (2 * k) (by omega), h (2 * k + 1) (by omega)]

/-- R252: a sample is at most full scale. -/
theorem sampleOf_le (hle : Bool) {ss : Nat} (hss : ss ∈ [1, 2]) (f : Nat → Byte) (k : Nat) :
    sampleOf hle ss f k ≤ sampleMax ss := by
  simp only [List.mem_cons, List.not_mem_nil, or_false] at hss
  have hlt : ∀ j, (f j).toNat < 256 := fun j => BitVec.isLt _
  rcases hss with rfl | rfl
  · exact Nat.le_of_lt_succ (hlt k)
  · have := hlt (2 * k)
    have := hlt (2 * k + 1)
    rw [sampleOf_two]
    simp only [sampleMax]
    split_ifs <;> omega

/-- R245: the samples of a pixel laid end to end read back. -/
theorem sampleOf_flatMap_sampleBytes {hle : Bool} {ss n : Nat} (hss : ss ∈ [1, 2]) {v : Nat → Nat} {k : Nat} (hk : k < n)
    (hv : v k ≤ sampleMax ss) :
    sampleOf hle ss (((List.range n).flatMap fun k => sampleBytes hle ss (v k)).getD · 0) k = v k := by
  have hbyte : ∀ i < ss, ((List.range n).flatMap fun k => sampleBytes hle ss (v k)).getD (k * ss + i) 0 =
      (sampleBytes hle ss (v k)).getD i 0 := fun i hi => getD_flatMap_range (fun _ _ => length_sampleBytes _ _ _) hk hi
  simp only [List.mem_cons, List.not_mem_nil, or_false] at hss
  rcases hss with rfl | rfl
  · have h0 := hbyte 0 (by omega)
    rw [Nat.mul_one, Nat.add_zero] at h0
    rw [sampleOf_one, h0]
    simp only [sampleMax] at hv
    cases hle <;> simp [sampleBytes, nativeOrder, natBytes] <;> omega
  · have h0 := hbyte 0 (by omega)
    have h1 := hbyte 1 (by omega)
    rw [Nat.mul_comm k, Nat.add_zero] at h0
    rw [Nat.mul_comm k] at h1
    rw [sampleOf_two, h0, h1]
    simp only [sampleMax] at hv
    cases hle <;> simp [sampleBytes, nativeOrder, natBytes, List.range_succ] <;> omega

end Sys2Proof.Machine
end

section
/-!
PROOFS about COMPOSE (45_compositor.md rules R240, R243 to R245, R250, R254). The canvas is known pixel by pixel. Each step of R250 writes
one of the three buffers, which the checks hold apart from each other and from the frame raster; drawing visits every pixel of the
rectangle once, so each is computed from the canvas as the dispose step left it (`drawPixels_spec`).
-/

namespace Sys2Proof.Machine

open Sys2Proof.Claims

/-! ### Addresses outside a range -/

/-- The address `b` lies outside the range `r`. -/
def OffRange (r : Nat × Nat) (b : Nat) : Prop := b < r.1 ∨ r.1 + r.2 ≤ b

theorem byte_write_off {r : Nat × Nat} {b a : Nat} {bs : List Byte} (m : Memory) (hb : OffRange r b)
    (hin : InsideRange r a bs.length) : (m.write a bs).byte b = m.byte b := by
  refine Memory.byte_write_outside _ _ _ _ ?_
  obtain ⟨hlow, hhigh⟩ := hin
  rcases hb with hb | hb <;> omega

/-- R67: an address of a range lies outside a range apart from it. -/
theorem apart_off_right {a b : Word} {n m i : Nat} (h : Apart a n b m) (hi : i < n) : OffRange (b.toNat, m) (a.toNat + i) := by
  unfold OffRange
  omega

theorem apart_off_left {a b : Word} {n m i : Nat} (h : Apart a n b m) (hi : i < m) : OffRange (a.toNat, n) (b.toNat + i) := by
  unfold OffRange
  omega

/-! ### Canvas pixels (R240) -/

/-- The address of byte `j` of a pixel of the canvas. -/
theorem pixelAddr_add (c : Compositor) (X Y j : Nat) : c.pixelAddr X Y + j = c.acanvas.toNat + canvasOffset c X Y j :=
  Nat.add_assoc _ _ _

theorem canvasOffset_lt {c : Compositor} {X Y j : Nat} (hX : X < c.aw.toNat) (hY : Y < c.ah.toNat) (hj : j < c.px) :
    canvasOffset c X Y j < c.cb :=
  (Nat.add_lt_add_left hj _).trans_le (pixel_le hX hY)

/-- Offset `j` of block `i` lies above the first byte of block `i'` exactly when block `i` does. -/
theorem le_block_iff {i i' j k : Nat} (hj : j < k) : i' * k ≤ i * k + j ↔ i' ≤ i := by
  rw [← Nat.le_div_iff_mul_le (Nat.zero_lt_of_lt hj), Nat.add_comm, Nat.add_mul_div_right _ _ (Nat.zero_lt_of_lt hj),
    Nat.div_eq_of_lt hj, Nat.zero_add]

section
variable {c : Compositor} {X Y j : Nat} (hX : X < c.aw.toNat) (hj : j < c.px)
include hX hj

/-- One pixel of the canvas is replaced. -/
theorem byte_write_pixel {X' Y' : Nat} {bs : List Byte} (m : Memory) (hX' : X' < c.aw.toNat) (hbs : bs.length = c.px) :
    (m.write (c.pixelAddr X' Y') bs).byte (c.pixelAddr X Y + j) =
      if X = X' ∧ Y = Y' then bs.getD j 0 else m.byte (c.pixelAddr X Y + j) := by
  rw [Memory.byte_write]
  by_cases hsame : X = X' ∧ Y = Y'
  · obtain ⟨rfl, rfl⟩ := hsame
    rw [if_pos (by omega), if_pos ⟨rfl, rfl⟩, Nat.add_sub_cancel_left]
  · rw [if_neg hsame, if_neg ?_]
    rintro ⟨hlow, hhigh⟩
    obtain ⟨d, hd⟩ := Nat.exists_eq_add_of_le hlow
    have hlt : d < c.px := by omega
    have hoffset : (Y * c.aw.toNat + X) * c.px + j = (Y' * c.aw.toNat + X') * c.px + d := by
      unfold Compositor.pixelAddr at hd
      omega
    obtain ⟨hx, hy, -⟩ := pixel_inj hX hX' hj hlt hoffset
    exact hsame ⟨hx, hy⟩

/-- R243: a stretch of a canvas row is cleared. -/
theorem byte_write_zeros {x y w : Nat} (m : Memory) (hx : x + w ≤ c.aw.toNat) :
    (m.write (c.pixelAddr x y) (zeros (w * c.px))).byte (c.pixelAddr X Y + j) =
      if (x ≤ X ∧ X < x + w) ∧ Y = y then 0 else m.byte (c.pixelAddr X Y + j) := by
  rw [Memory.byte_write, getD_zeros, length_zeros]
  refine if_congr ?_ rfl rfl
  have hlow : c.pixelAddr x y ≤ c.pixelAddr X Y + j ↔ y * c.aw.toNat + x ≤ Y * c.aw.toNat + X := by
    rw [← le_block_iff (i := Y * c.aw.toNat + X) hj]
    unfold Compositor.pixelAddr
    omega
  have hhigh : c.pixelAddr X Y + j < c.pixelAddr x y + w * c.px ↔ Y * c.aw.toNat + X < y * c.aw.toNat + x + w := by
    rw [← not_le, ← not_le, ← le_block_iff (i := Y * c.aw.toNat + X) hj, Nat.add_mul]
    unfold Compositor.pixelAddr
    omega
  rw [hlow, hhigh]
  constructor
  · rintro ⟨h1, h2⟩
    have hle : y ≤ Y := (le_block_iff hX).mp (show y * c.aw.toNat ≤ Y * c.aw.toNat + X by omega)
    have hge : ¬y + 1 ≤ Y := fun h => by
      have := (le_block_iff hX).mpr h
      rw [Nat.succ_mul] at this
      omega
    obtain rfl : Y = y := by omega
    omega
  · rintro ⟨hX', rfl⟩
    omega

end

/-! ### The dispose step and the snapshot (R243, R250, R254) -/

/-- R243: the first `n` rows of the recorded rectangle cleared. -/
theorem byte_clearRows {c : Compositor} (m : Memory) (hx : c.apx.toNat + c.apw.toNat ≤ c.aw.toNat) {X Y j : Nat}
    (hX : X < c.aw.toNat) (hj : j < c.px) (n : Nat) :
    ((List.range n).foldl
        (fun m r => m.write (c.pixelAddr c.apx.toNat (c.apy.toNat + r)) (zeros (c.apw.toNat * c.px))) m).byte
      (c.pixelAddr X Y + j) =
      if (c.apx.toNat ≤ X ∧ X < c.apx.toNat + c.apw.toNat) ∧ (c.apy.toNat ≤ Y ∧ Y < c.apy.toNat + n) then 0
      else m.byte (c.pixelAddr X Y + j) := by
  induction n with
  | zero =>
    rw [if_neg (by omega)]
    rfl
  | succ n ih =>
    rw [List.range_succ, List.foldl_append, List.foldl_cons, List.foldl_nil, byte_write_zeros hX hj _ hx, ih, ← ite_or]
    exact if_congr (by omega) rfl rfl

/-- R243, R254: the canvas before the frame is drawn. -/
def disposedCanvas (c : Compositor) (m : Memory) : Memory :=
  if c.aframes = 0 then m.write c.acanvas.toNat (zeros c.cb) else disposePrevious c m

theorem prepareCanvas_eq (c : Compositor) (m : Memory) :
    prepareCanvas c m = (disposedCanvas c m).write c.asnap.toNat ((disposedCanvas c m).read c.acanvas.toNat c.cb) := rfl

theorem byte_write_canvas {c : Compositor} {bs : List Byte} (m : Memory) (hbs : bs.length = c.cb) {X Y j : Nat}
    (hX : X < c.aw.toNat) (hY : Y < c.ah.toNat) (hj : j < c.px) :
    (m.write c.acanvas.toNat bs).byte (c.pixelAddr X Y + j) = bs.getD (canvasOffset c X Y j) 0 := by
  rw [pixelAddr_add]
  exact Memory.byte_write_inside _ _ _ _ (hbs.symm ▸ canvasOffset_lt hX hY hj)

/-- R243, R254: the dispose step leaves the canvas the claims name. -/
theorem byte_disposedCanvas {s : State} (hinv : s.comp.Inv) {X Y j : Nat} (hX : X < s.comp.aw.toNat) (hY : Y < s.comp.ah.toNat)
    (hj : j < s.comp.px) : (disposedCanvas s.comp s.mem).byte (s.comp.pixelAddr X Y + j) = baseByte s X Y j := by
  rw [disposedCanvas, baseByte, ← pixelAddr_add]
  by_cases hfirst : s.comp.aframes = 0
  · rw [if_pos hfirst, if_pos hfirst, byte_write_canvas _ (length_zeros _) hX hY hj, getD_zeros]
  · rw [if_neg hfirst, if_neg hfirst, disposePrevious]
    split
    · next h1 =>
      rw [if_pos (BitVec.eq_of_toNat_eq h1), clearRect, byte_clearRows _ hinv.rectX hX hj]
    · next h2 =>
      have hdisp : s.comp.apdisp = 2 := BitVec.eq_of_toNat_eq h2
      rw [if_neg (by rw [hdisp]; decide), if_pos hdisp, byte_write_canvas _ (length_read _ _ _) hX hY hj,
        getD_read _ _ (canvasOffset_lt hX hY hj)]
    · next h1 h2 =>
      rw [if_neg fun h => h1 (congrArg BitVec.toNat h), if_neg fun h => h2 (congrArg BitVec.toNat h)]

/-- R243: the dispose step writes the canvas only. -/
theorem byte_disposedCanvas_off {c : Compositor} (hinv : c.Inv) (m : Memory) {b : Nat} (hb : OffRange (c.acanvas.toNat, c.cb) b) :
    (disposedCanvas c m).byte b = m.byte b := by
  unfold disposedCanvas
  split
  · exact byte_write_off _ hb ⟨le_rfl, by simp⟩
  · exact disposePrevious_induction (P := fun m' => m'.byte b = m.byte b)
      (fun m' a bs hm hin => (byte_write_off m' hb hin).trans hm) hinv rfl

/-! ### Drawing the frame (R244, R245) -/

section
variable (inst : Config.OverInstance) (hle : Bool) (c : Compositor) (src : Nat) (e : FrameRect)

/-- R244, R245: the bytes drawn for frame pixel (`p.2`, `p.1`). -/
def drawnPixel (m : Memory) (p : Nat × Nat) : List Byte :=
  let sp := src + (p.1 * e.ew + p.2) * c.px
  if e.isOver then overPixel inst hle c m sp (c.pixelAddr (e.ex + p.2) (e.ey + p.1)) else m.read sp c.px

/-- R250: the pixels of the list drawn one after another. -/
def drawPixels (ps : List (Nat × Nat)) (m : Memory) : Memory :=
  ps.foldl (fun m p => m.write (c.pixelAddr (e.ex + p.2) (e.ey + p.1)) (drawnPixel inst hle c src e m p)) m

/-- R250: the two loops are one, over the pixels of the rectangle in row-major order. -/
theorem drawFrame_eq (m : Memory) :
    drawFrame inst hle c src e m = drawPixels inst hle c src e (List.range e.eh ×ˢ List.range e.ew) m := by
  simp only [drawFrame, drawPixels, SProd.sprod, List.product, List.foldl_flatMap, List.foldl_map]
  rfl

theorem length_drawnPixel (m : Memory) (p : Nat × Nat) : (drawnPixel inst hle c src e m p).length = c.px := by
  unfold drawnPixel
  dsimp only
  split <;> simp

end

/-- R245: a pixel drawn depends on the frame's pixel and the canvas's, and on no other byte. -/
theorem drawnPixel_congr {inst : Config.OverInstance} {hle : Bool} {c : Compositor} {src : Nat} {e : FrameRect} {m m' : Memory}
    {p : Nat × Nat} (hss : c.ass.toNat ∈ [1, 2])
    (hsrc : ∀ j < c.px, m.byte (src + (p.1 * e.ew + p.2) * c.px + j) = m'.byte (src + (p.1 * e.ew + p.2) * c.px + j))
    (hdst : ∀ j < c.px,
      m.byte (c.pixelAddr (e.ex + p.2) (e.ey + p.1) + j) = m'.byte (c.pixelAddr (e.ex + p.2) (e.ey + p.1) + j)) :
    drawnPixel inst hle c src e m p = drawnPixel inst hle c src e m' p := by
  have hsample : ∀ k < c.ach.toNat, ∀ a, (∀ j < c.px, m.byte (a + j) = m'.byte (a + j)) →
      sampleAt m hle c.ass.toNat (a + k * c.ass.toNat) = sampleAt m' hle c.ass.toNat (a + k * c.ass.toNat) := fun k hk a ha => by
    rw [sampleAt_eq_sampleOf _ _ hss, sampleAt_eq_sampleOf _ _ hss]
    exact sampleOf_congr hss hk ha
  unfold drawnPixel
  dsimp only
  split
  · refine List.flatMap_congr fun k hk => ?_
    have hk := List.mem_range.mp hk
    rw [hsample k hk _ hsrc, hsample k hk _ hdst, hsample (c.ach.toNat - 1) (by omega) _ hsrc]
  · exact Memory.read_congr hsrc

section
variable {inst : Config.OverInstance} {hle : Bool} {c : Compositor} {src : Nat} {e : FrameRect} (hss : c.ass.toNat ∈ [1, 2])
  (hx : e.ex + e.ew ≤ c.aw.toNat) (hy : e.ey + e.eh ≤ c.ah.toNat)
  (hsrc : ∀ i < e.ew * e.eh * c.px, OffRange (c.acanvas.toNat, c.cb) (src + i))
include hss hx hy hsrc

/-- R250: drawing one pixel does not change what another one draws. -/
theorem drawnPixel_write {m : Memory} {p q : Nat × Nat} (hp : p.1 < e.eh ∧ p.2 < e.ew) (hq : q.1 < e.eh ∧ q.2 < e.ew) (hne : q ≠ p) :
    drawnPixel inst hle c src e (m.write (c.pixelAddr (e.ex + p.2) (e.ey + p.1)) (drawnPixel inst hle c src e m p)) q =
      drawnPixel inst hle c src e m q := by
  have hlen := length_drawnPixel inst hle c src e m p
  refine drawnPixel_congr hss (fun j hj => ?_) (fun j hj => ?_)
  · have hin : (q.1 * e.ew + q.2) * c.px + j < e.ew * e.eh * c.px := (Nat.add_lt_add_left hj _).trans_le (pixel_le hq.2 hq.1)
    have hwrite := pixels_inside_canvas (c := c) (x := e.ex + p.2) (y := e.ey + p.1) (n := 1) (by omega) (by omega)
    rw [Nat.one_mul, ← hlen] at hwrite
    rw [Nat.add_assoc]
    exact byte_write_off m (hsrc _ hin) hwrite
  · rw [byte_write_pixel (by omega) hj m (by omega) hlen, if_neg]
    rintro ⟨h1, h2⟩
    exact hne (Prod.ext (by omega) (by omega))

/-- R250: a pixel of the list holds what is drawn from the memory before, every other pixel what it held. -/
theorem drawPixels_spec {ps : List (Nat × Nat)} (hnodup : ps.Nodup) (hin : ∀ p ∈ ps, p.1 < e.eh ∧ p.2 < e.ew) {X Y j : Nat}
    (hX : X < c.aw.toNat) (hj : j < c.px) (m : Memory) :
    (∀ p ∈ ps, X = e.ex + p.2 → Y = e.ey + p.1 →
      (drawPixels inst hle c src e ps m).byte (c.pixelAddr X Y + j) = (drawnPixel inst hle c src e m p).getD j 0) ∧
    ((∀ p ∈ ps, X = e.ex + p.2 → Y ≠ e.ey + p.1) →
      (drawPixels inst hle c src e ps m).byte (c.pixelAddr X Y + j) = m.byte (c.pixelAddr X Y + j)) := by
  induction ps generalizing m with
  | nil => exact ⟨fun _ hp => absurd hp (by simp), fun _ => rfl⟩
  | cons p ps ih =>
    obtain ⟨hfresh, hnodup'⟩ := List.nodup_cons.mp hnodup
    have hp := hin p (by simp)
    have hput := byte_write_pixel (Y := Y) (Y' := e.ey + p.1) hX hj m (show e.ex + p.2 < c.aw.toNat by omega)
      (length_drawnPixel inst hle c src e m p)
    obtain ⟨hhit, hmiss⟩ := ih hnodup' (fun q hq => hin q (by simp [hq]))
      (m.write (c.pixelAddr (e.ex + p.2) (e.ey + p.1)) (drawnPixel inst hle c src e m p))
    refine ⟨fun q hq hqx hqy => ?_, fun hno => ?_⟩
    · rcases List.mem_cons.mp hq with rfl | hq'
      · refine (hmiss fun r hr hrx hry => hfresh ?_).trans (hput.trans (if_pos ⟨hqx, hqy⟩))
        rwa [show q = r from Prod.ext (by omega) (by omega)]
      · refine (hhit q hq' hqx hqy).trans ?_
        rw [drawnPixel_write hss hx hy hsrc hp (hin q hq)]
        rintro rfl
        exact hfresh hq'
    · refine (hmiss fun q hq => hno q (by simp [hq])).trans (hput.trans (if_neg ?_))
      rintro ⟨hpx, hpy⟩
      exact hno p (by simp) hpx hpy

/-- R250: the pixels of the rectangle hold what is drawn from the canvas before, the others what they held. -/
theorem byte_drawFrame {X Y j : Nat} (hX : X < c.aw.toNat) (hj : j < c.px) (m : Memory) :
    (drawFrame inst hle c src e m).byte (c.pixelAddr X Y + j) =
      if InRect e X Y then (drawnPixel inst hle c src e m (Y - e.ey, X - e.ex)).getD j 0 else m.byte (c.pixelAddr X Y + j) := by
  have hin : ∀ p ∈ List.range e.eh ×ˢ List.range e.ew, p.1 < e.eh ∧ p.2 < e.ew := fun p hp =>
    (List.pair_mem_product.mp hp).imp List.mem_range.mp List.mem_range.mp
  obtain ⟨hhit, hmiss⟩ := drawPixels_spec hss hx hy hsrc (List.nodup_range.product List.nodup_range) hin (Y := Y) hX hj
    (inst := inst) (hle := hle) m
  rw [drawFrame_eq]
  split
  · next hrect => exact hhit (Y - e.ey, X - e.ex) (by simp; omega) (by simp; omega) (by simp; omega)
  · next hrect =>
    refine hmiss fun p hp hpx hpy => hrect ?_
    have := hin p hp
    omega

end

theorem byte_drawFrame_off {inst : Config.OverInstance} {hle : Bool} {c : Compositor} {src : Nat} {e : FrameRect}
    (hx : e.ex + e.ew ≤ c.aw.toNat) (hy : e.ey + e.eh ≤ c.ah.toNat) (m : Memory) {b : Nat}
    (hb : OffRange (c.acanvas.toNat, c.cb) b) : (drawFrame inst hle c src e m).byte b = m.byte b :=
  drawFrame_induction (P := fun m' => m'.byte b = m.byte b) (fun m' _ _ hm hin => (byte_write_off m' hb hin).trans hm) hx hy rfl

/-! ### COMPOSE (R250) -/

/-- A copy of the canvas writes the buffer it goes to, and nothing else. -/
theorem byte_write_copy {c : Compositor} (m m' : Memory) (a : Word) :
    (∀ i < c.cb, (m.write a.toNat (m'.read c.acanvas.toNat c.cb)).byte (a.toNat + i) = m'.byte (c.acanvas.toNat + i)) ∧
    ∀ b, OffRange (a.toNat, c.cb) b → (m.write a.toNat (m'.read c.acanvas.toNat c.cb)).byte b = m.byte b := by
  refine ⟨fun i hi => ?_, fun b hb => byte_write_off m hb ⟨le_rfl, by simp⟩⟩
  rw [Memory.byte_write_inside _ _ _ _ (by simpa using hi), getD_read _ _ hi]

theorem recordFrame_eq (c : Compositor) (dispose : Byte) (e : FrameRect) : recordFrame c dispose e = recorded c dispose e := by
  have hframes : BitVec.ofNat 32 (min (c.aframes.toNat + 1) (2 ^ 32 - 1)) =
      if c.aframes.toNat = 2 ^ 32 - 1 then c.aframes else c.aframes + 1 := by
    have := c.aframes.isLt
    refine BitVec.eq_of_toNat_eq ?_
    rw [BitVec.toNat_ofNat]
    split
    · omega
    · rw [BitVec.toNat_add]
      simp
      omega
  rw [recordFrame, recorded, hframes, setWidth_eq_ofNat]

section
variable {s : State} {dispose blend : Byte} {src fw fh out x y : Word}

/-- R250: what COMPOSE leaves, with the pixels of the rectangle as they are drawn into the canvas prepared for the frame. -/
theorem execCompose_completes (hinv : s.comp.Inv) (hready : ComposeReady s dispose blend src fw fh out x y) :
    let c := s.comp
    let e := effectiveRect c blend fw fh x y
    ∃ m : Memory,
      exec (.compose dispose blend src fw fh out x y) s =
        .next { s with mem := m, comp := recorded c dispose e, olen := BitVec.ofNat 32 c.cb, cp := s.cp + 32 } ∧
      (∀ Y < c.ah.toNat, ∀ X < c.aw.toNat, ∀ j < c.px,
        m.byte (c.asnap.toNat + canvasOffset c X Y j) = baseByte s X Y j ∧
        m.byte (c.acanvas.toNat + canvasOffset c X Y j) =
          if InRect e X Y then
            (drawnPixel s.config.overFn s.cfg.hle c src.toNat e (prepareCanvas c s.mem) (Y - e.ey, X - e.ex)).getD j 0
          else baseByte s X Y j) ∧
      (∀ i < c.cb, m.byte (out.toNat + i) = m.byte (c.acanvas.toNat + i)) ∧ SameOutsideCanvas s m out := by
  intro c e
  obtain ⟨t, hexec, rfl⟩ := (execCompose_answers dispose blend src fw fh out x y s).exists_effect (composeCheck_eq_none.mpr hready)
  obtain ⟨hx, hy⟩ := effectiveRect_inside hready
  obtain ⟨-, -, haw, -, -, ⟨hsrcCanvas, -, -⟩, hcanvasSnap, hcanvasOut, hsnapOut⟩ := id hready
  have hss : c.ass.toNat ∈ [1, 2] := by rcases hinv.sampleBytes haw with h | h <;> simp [c, h]
  have hsrc : ∀ i < e.ew * e.eh * c.px, OffRange (c.acanvas.toNat, c.cb) (src.toNat + i) := fun i hi => apart_off_right hsrcCanvas hi
  -- The dispose step, the snapshot, the drawing, the output.
  obtain ⟨hsnap, hsnapOff⟩ := byte_write_copy (c := c) (disposedCanvas c s.mem) (disposedCanvas c s.mem) c.asnap
  rw [← prepareCanvas_eq] at hsnap hsnapOff
  have hdraw : ∀ b, OffRange (c.acanvas.toNat, c.cb) b →
      (drawFrame s.config.overFn s.cfg.hle c src.toNat e (prepareCanvas c s.mem)).byte b = (prepareCanvas c s.mem).byte b :=
    fun b hb => byte_drawFrame_off hx hy _ hb
  obtain ⟨hout, houtOff⟩ := byte_write_copy (c := c) (drawFrame s.config.overFn s.cfg.hle c src.toNat e (prepareCanvas c s.mem))
    (drawFrame s.config.overFn s.cfg.hle c src.toNat e (prepareCanvas c s.mem)) out
  refine ⟨_, hexec.trans (by rw [recordFrame_eq]; rfl), fun Y hY X hX j hj => ⟨?snapshot, ?canvas⟩, fun i hi => ?output, ?outside⟩
  case snapshot =>
    have hi := canvasOffset_lt hX hY hj
    refine (houtOff _ (apart_off_right hsnapOut hi)).trans ((hdraw _ (apart_off_left hcanvasSnap hi)).trans ((hsnap _ hi).trans ?_))
    rw [← pixelAddr_add]
    exact byte_disposedCanvas hinv hX hY hj
  case canvas =>
    have hi := canvasOffset_lt hX hY hj
    refine (houtOff _ (apart_off_right hcanvasOut hi)).trans ?_
    rw [← pixelAddr_add, byte_drawFrame hss hx hy hsrc hX hj]
    refine if_congr Iff.rfl rfl ?_
    rw [← byte_disposedCanvas hinv hX hY hj, pixelAddr_add]
    exact hsnapOff _ (apart_off_right hcanvasSnap hi)
  case output => exact (hout i hi).trans (houtOff _ (apart_off_right hcanvasOut hi)).symm
  case outside =>
    intro b hcanvas hsnapshot houtput
    exact (houtOff b houtput).trans ((hdraw b hcanvas).trans ((hsnapOff b hsnapshot).trans (byte_disposedCanvas_off hinv _ hcanvas)))

/-- R67, R250: the frame raster and the canvas as the blend finds them. -/
theorem byte_prepareCanvas (hinv : s.comp.Inv) (hready : ComposeReady s dispose blend src fw fh out x y) :
    let c := s.comp
    let e := effectiveRect c blend fw fh x y
    (∀ Y < c.ah.toNat, ∀ X < c.aw.toNat, ∀ j < c.px,
      (prepareCanvas c s.mem).byte (c.pixelAddr X Y + j) = baseByte s X Y j) ∧
    ∀ i < e.ew * e.eh * c.px, (prepareCanvas c s.mem).byte (src.toNat + i) = s.mem.byte (src.toNat + i) := by
  intro c e
  obtain ⟨-, -, -, -, -, ⟨hsrcCanvas, hsrcSnap, -⟩, hcanvasSnap, -⟩ := id hready
  obtain ⟨-, hsnapOff⟩ := byte_write_copy (c := c) (disposedCanvas c s.mem) (disposedCanvas c s.mem) c.asnap
  rw [← prepareCanvas_eq] at hsnapOff
  refine ⟨fun Y hY X hX j hj => ?_, fun i hi => ?_⟩
  · rw [← byte_disposedCanvas hinv hX hY hj, pixelAddr_add]
    exact hsnapOff _ (apart_off_right hcanvasSnap (canvasOffset_lt hX hY hj))
  · exact (hsnapOff _ (apart_off_right hsrcSnap hi)).trans (byte_disposedCanvas_off hinv _ (apart_off_right hsrcCanvas hi))

end

/-- Settles O38: with "source" the frame's bytes are what is drawn. -/
theorem composeSourceOverwritesTheRectangle : Obligations.ComposeSourceOverwritesTheRectangle := by
  unfold Obligations.ComposeSourceOverwritesTheRectangle
  intro s dispose blend src fw fh out x y c e hinv hready hsource
  have hover : e.isOver = false := by
    show (effectiveRect c blend fw fh x y).isOver = false
    unfold effectiveRect
    split
    · rfl
    · next hframes => simp [hsource.resolve_left hframes]
  obtain ⟨m, hexec, hpixels, houtput, houtside⟩ := execCompose_completes hinv hready
  obtain ⟨-, hframe⟩ := byte_prepareCanvas hinv hready
  refine ⟨m, hexec, fun Y hY X hX j hj => ⟨(hpixels Y hY X hX j hj).1, (hpixels Y hY X hX j hj).2.trans ?_⟩, houtput, houtside⟩
  by_cases hrect : InRect e X Y
  · have hin : ((Y - e.ey) * e.ew + (X - e.ex)) * c.px + j < e.ew * e.eh * c.px :=
      (Nat.add_lt_add_left hj _).trans_le (pixel_le (by omega) (by omega))
    rw [if_pos hrect, if_pos hrect, drawnPixel, if_neg (by rw [hover]; decide), getD_read _ _ hj, Nat.add_assoc, hframe _ hin,
      frameAddr, Nat.add_assoc]
  · rw [if_neg hrect, if_neg hrect]

/-- R245: the samples of a pixel drawn with "over". -/
theorem sampleOf_overPixel {inst : Config.OverInstance} {hle : Bool} {c : Compositor} {m : Memory} {sp dp k : Nat}
    (hss : c.ass.toNat ∈ [1, 2]) (hk : k < c.ach.toNat) :
    sampleOf hle c.ass.toNat ((overPixel inst hle c m sp dp).getD · 0) k =
      blendOver inst c.ass.toNat (decide (k = c.ach.toNat - 1)) (sampleOf hle c.ass.toNat (fun j => m.byte (sp + j)) k)
        (sampleOf hle c.ass.toNat (fun j => m.byte (dp + j)) k)
        (sampleOf hle c.ass.toNat (fun j => m.byte (sp + j)) (c.ach.toNat - 1)) := by
  have hne : c.ass.toNat ≠ 0 := by rintro h0; simp [h0] at hss
  simp only [overPixel, sampleAt_eq_sampleOf _ _ hss]
  exact sampleOf_flatMap_sampleBytes hss hk
    (blendOver_le hne (sampleOf_le _ hss _ _) (sampleOf_le _ hss _ _) (sampleOf_le _ hss _ _) inst _)

/-- Settles O39: with "over" each sample drawn is OVER of the samples of the frame and of the canvas after the dispose step. -/
theorem composeOverBlendsEverySample : Obligations.ComposeOverBlendsEverySample := by
  unfold Obligations.ComposeOverBlendsEverySample
  intro s dispose blend src fw fh out x y c e ss hinv hready hlater hblend
  have hover : e.isOver = true := by
    show (effectiveRect c blend fw fh x y).isOver = true
    rw [effectiveRect, if_neg hlater, hblend]
    rfl
  obtain ⟨m, hexec, hpixels, houtput, houtside⟩ := execCompose_completes hinv hready
  obtain ⟨hbase, hframe⟩ := byte_prepareCanvas hinv hready
  obtain ⟨-, -, haw, -⟩ := id hready
  have hss : ss ∈ [1, 2] := by rcases hinv.sampleBytes haw with h | h <;> simp [ss, c, h]
  refine ⟨m, hexec, fun Y hY X hX => ⟨fun j hj => (hpixels Y hY X hX j hj).1,
    fun hrect j hj => (hpixels Y hY X hX j hj).2.trans (if_neg hrect), fun hrect k hk => ?_⟩, houtput, houtside⟩
  have hpixel : drawnPixel s.config.overFn s.cfg.hle c src.toNat e (prepareCanvas c s.mem) (Y - e.ey, X - e.ex) =
      overPixel s.config.overFn s.cfg.hle c (prepareCanvas c s.mem) (src.toNat + ((Y - e.ey) * e.ew + (X - e.ex)) * c.px)
        (c.pixelAddr X Y) := by
    rw [drawnPixel, if_pos hover, Nat.add_sub_cancel' hrect.1.1, Nat.add_sub_cancel' hrect.2.1]
  have hdrawn : ∀ j < c.px, m.byte (c.acanvas.toNat + canvasOffset c X Y j) =
      (overPixel s.config.overFn s.cfg.hle c (prepareCanvas c s.mem) (src.toNat + ((Y - e.ey) * e.ew + (X - e.ex)) * c.px)
        (c.pixelAddr X Y)).getD j 0 := by
    intro j hj
    rw [← hpixel]
    exact (hpixels Y hY X hX j hj).2.trans (if_pos hrect)
  have hfg : ∀ j < c.px, (prepareCanvas c s.mem).byte (src.toNat + ((Y - e.ey) * e.ew + (X - e.ex)) * c.px + j) =
      s.mem.byte (frameAddr c e src.toNat X Y j) := by
    intro j hj
    have hin : ((Y - e.ey) * e.ew + (X - e.ex)) * c.px + j < e.ew * e.eh * c.px :=
      (Nat.add_lt_add_left hj _).trans_le (pixel_le (by omega) (by omega))
    rw [Nat.add_assoc, hframe _ hin, frameAddr, Nat.add_assoc]
  intro fg
  rw [sampleOf_congr hss hk hdrawn, sampleOf_overPixel hss hk, sampleOf_congr hss hk hfg,
    sampleOf_congr hss (show c.ach.toNat - 1 < c.ach.toNat by omega) hfg, sampleOf_congr hss hk (hbase Y hY X hX)]

end Sys2Proof.Machine
end
